-- ==== Sys2Proof/Word.lean ====
section
/-! DEFINITION. The word types of JMP3DEC-CORE: bytes of the stream, command and result words, header
words, and the values of samples. Nothing here computes. -/

namespace Sys2Proof

/-- One byte of the compressed stream (`SRC`, `FB`, `MD`, `RES`), R80 and R82. -/
abbrev Byte := BitVec 8

/-- A 64-bit word of the command port or of the equalizer port (R121), and a result word (R124). -/
abbrev CmdWord := BitVec 64

/-- The 32-bit header word of a frame, bit 31 first in the stream (R131). -/
abbrev HeaderWord := BitVec 32

/-- One value of a binary floating-point number system (R8, R12): (-1)^s * m * 2^e with m odd, or a zero with m = 0 and
e = 0; an infinity; not a number. Whichever the format `NUM` is, its values are among these, each written one way. -/
inductive Sample
  | fin (s : Bool) (m : Nat) (e : Int)
  | inf (s : Bool)
  | nan
  deriving DecidableEq, Repr, Inhabited

/-- One 16-bit signed PCM sample as the sink receives it (R96, R98). -/
abbrev Pcm := BitVec 16

end Sys2Proof
end

