-- ==== Sys2Proof/Config.lean ====
section
/-! DEFINITION. The OPEN parameters of R8, as one record of plain data, and the values that the spec leaves open, as
constants without a body. A machine carries one such record in its state and no instruction writes it; so a statement
about every state is a statement about every parameter setting. The defaults (`Config.default`) stand in
Machine/Tables.lean. -/

namespace Sys2Proof

/-- `NUM` (R8, R12): the formats in which the model can compute, the three basic binary formats of IEEE 754, with rounding
to nearest even (log entry 1). -/
inductive NumSystem
  | binary32
  | binary64
  | binary128
  deriving DecidableEq, Repr, Inhabited

/-- `SYNC_BITS` (R8, R132): the two legal widths of the sync pattern. -/
inductive SyncBits
  | eleven
  | twelve
  deriving DecidableEq, Repr, Inhabited

/-- `PCM_ROUND` (R8, R255): the two ways of removing a fraction. -/
inductive PcmRound
  | truncate
  | nearest
  deriving DecidableEq, Repr, Inhabited

/-! ## Tables of Layer II (R293, R300) -/

/-- A row of `L2_ALLOC`: how many subbands it covers, the code width `nbal`, and the class of each non-zero code. -/
structure AllocRow where
  count : Nat
  nbal : Fin 5
  classes : List Nat
  deriving DecidableEq, Repr, Inhabited

/-- `L2_ALLOC`: the five tables, subbands in ascending order. -/
structure AllocTables where
  a : List AllocRow
  b : List AllocRow
  c : List AllocRow
  d : List AllocRow
  lsf : List AllocRow
  deriving DecidableEq, Repr, Inhabited

/-- A quantisation class of `L2_QUANT`: steps L, bits per sample n, the code word bits of a grouped class, and D as a
power of two, D = 2^(-dExp). C is 2^n / L (R300). -/
structure QuantClass where
  steps : Nat
  bits : Nat
  group : Option Nat
  dExp : Nat
  deriving DecidableEq, Repr, Inhabited

/-! ## Tables of Layer III (R343, R364, R368) -/

/-- One value for each of the nine sample rates, that is for each version and rate index. -/
structure PerRate (α : Type) where
  r44100 : α
  r48000 : α
  r32000 : α
  r22050 : α
  r24000 : α
  r16000 : α
  r11025 : α
  r12000 : α
  r8000 : α
  deriving DecidableEq, Repr, Inhabited

/-- One entry (x, y, hlen, hcod) of a pair codebook of dimension `n` (R364).
The bounds are the spec's: values 0..n-1, code lengths up to 19 bits. -/
structure HuffEntry (n : Nat) where
  x : Fin n
  y : Fin n
  hlen : Fin 20
  hcod : BitVec 19
  deriving DecidableEq, Repr

/-- One entry of a quad codebook (R368): q = 8v + 4w + 2x + y and its word. -/
structure QuadEntry where
  q : Fin 16
  hlen : Fin 20
  hcod : BitVec 19
  deriving DecidableEq, Repr

/-- `HUFF_PAIR[t]` and `HUFF_QUAD[A]`, `HUFF_QUAD[B]`. -/
structure HuffBooks where
  b1 : List (HuffEntry 2)
  b2 : List (HuffEntry 3)
  b3 : List (HuffEntry 3)
  b5 : List (HuffEntry 4)
  b6 : List (HuffEntry 4)
  b7 : List (HuffEntry 6)
  b8 : List (HuffEntry 6)
  b9 : List (HuffEntry 6)
  b10 : List (HuffEntry 8)
  b11 : List (HuffEntry 8)
  b12 : List (HuffEntry 8)
  b13 : List (HuffEntry 16)
  b15 : List (HuffEntry 16)
  b16 : List (HuffEntry 16)
  b24 : List (HuffEntry 16)
  quadA : List QuadEntry
  quadB : List QuadEntry
  deriving DecidableEq, Repr, Inhabited

/-- The parameters of R8 that are OPEN. -/
structure Config where
  /-- `NUM` -/
  num : NumSystem
  /-- `SYNC_BITS` -/
  syncBits : SyncBits
  /-- `LSF_HALVE_L2` -/
  lsfHalveL2 : Bool
  /-- `OUT_SCALE` -/
  outScale : Sample
  /-- `PCM_ROUND` -/
  pcmRound : PcmRound
  /-- `BR_PREFETCH`, in bytes -/
  brPrefetch : Nat
  /-- `N_SINKS`; at most 256, because `OUT.sink` has 8 bits (R35) -/
  nSinks : Fin 257
  /-- `SYNTH_WINDOW`: the 512 coefficients `D[0..511]` -/
  synthWindow : Vector Sample 512
  /-- `HUFF_PAIR`, `HUFF_QUAD` -/
  books : HuffBooks
  /-- `SFB_LONG`: the 23 boundaries of each rate -/
  sfbLong : PerRate (Vector Nat 23)
  /-- `SFB_SHORT`: the 14 boundaries of each rate -/
  sfbShort : PerRate (Vector Nat 14)
  /-- `L2_ALLOC` -/
  l2Alloc : AllocTables
  /-- `L2_QUANT`: the 17 classes -/
  l2Quant : Vector QuantClass 17
  deriving DecidableEq, Repr

/-- Free value: the window `D` of R252, of which a model "may assume nothing else". -/
opaque Config.openWindow : Vector Sample 512

/-- Free value: the ten codebooks that R364 leaves to be supplied are read from it, b7 to b24. -/
opaque Config.openBooks : HuffBooks

/-- Free value: the contents of the transient registers after a reset command (R524: "unspecified").
The first argument counts the uses, the second numbers the register element. -/
opaque Config.freeElement : Nat → Nat → Nat

/-- Free value: the exponent, in quarters, of a line that lies in no band of an `SFB_LONG` or `SFB_SHORT` parameter that
does not cover the lines (R391 takes every line to lie in a band). The first argument counts the uses, the second numbers
the line. -/
opaque Config.freeExponent : Nat → Nat → Int

/-- Free value: how many bytes beyond need a pull fetches; the model clips it to `BR_PREFETCH` (R84). -/
opaque Config.freePrefetch : Nat → Nat

end Sys2Proof
end

