-- ==== Sys2Proof/Syntax.lean ====
section
/-! DEFINITION. The instructions: one constructor for every row of spec/opcode_table.json, in the table's order.
Level 1 are the commands of the command port (R122) and the pseudo-instructions over them (R161); level 2 are the
frames, named by their header word (R133, R136); level 3 are the selectors of the Layer III side information that
choose a block kind or a codebook (R155). -/

namespace Sys2Proof

/-- The fields of a header word (R131), first field first in the stream. -/
structure HeaderFields where
  sync : BitVec 11
  versionId : BitVec 2
  layerCode : BitVec 2
  protection : BitVec 1
  bitrateIndex : BitVec 4
  rateIndex : BitVec 2
  padding : BitVec 1
  privateBit : BitVec 1
  mode : BitVec 2
  modeExt : BitVec 2
  copyright : BitVec 1
  original : BitVec 1
  emphasis : BitVec 2
  deriving DecidableEq, Repr, Inhabited

/-- One instruction of the opcode table. -/
inductive Instr
  -- level 1: the commands, R122
  | reset
  | reinit
  | restart
  | readbits (n : BitVec 8)
  | sync
  | parseHeader
  | decodeFrame
  | eqSetband (band : BitVec 8) (value : BitVec 32)
  | eqApply
  | setOutput (sink : BitVec 32)
  | getParam (sel : BitVec 8) (idx : BitVec 32)
  /-- a command word that is no command (R126) -/
  | illegalCmd (w : CmdWord)
  -- the pseudo-instructions, R161
  | readbit
  | nextHeader
  | setEqualizer (values : Vector (BitVec 32) 32)
  | decodeNext
  -- level 2: frames and the reserved header words, R131, R133, R136
  | frameL1 (h : HeaderFields)
  | frameL2 (h : HeaderFields)
  | frameL3 (h : HeaderFields)
  | hdrNoSync (h : HeaderFields)
  | hdrRsvVersion (h : HeaderFields)
  | hdrRsvLayer (h : HeaderFields)
  | hdrRsvBitrate (h : HeaderFields)
  | hdrRsvRate (h : HeaderFields)
  | hdrFreeFormat (h : HeaderFields)
  -- level 3: block kinds, R323; `m` is a mixed_block_flag that is read and ignored
  | blkNormal
  | blkStart (m : BitVec 1)
  | blkShort
  | blkMixed
  | blkStop (m : BitVec 1)
  | blkReserved (m : BitVec 1)
  -- level 3: table_select values, R362
  | tsel0
  | tsel1
  | tsel2
  | tsel3
  | tsel4
  | tsel5
  | tsel6
  | tsel7
  | tsel8
  | tsel9
  | tsel10
  | tsel11
  | tsel12
  | tsel13
  | tsel14
  | tsel15
  | tsel16
  | tsel17
  | tsel18
  | tsel19
  | tsel20
  | tsel21
  | tsel22
  | tsel23
  | tsel24
  | tsel25
  | tsel26
  | tsel27
  | tsel28
  | tsel29
  | tsel30
  | tsel31
  -- level 3: count1table_select values, R368
  | count1A
  | count1B
  deriving DecidableEq, Repr

/-- A level 3 selector as the granule record holds it (R142): the 5 bits of a `table_select`, the bit of
`count1table_select`, or `window_switching_flag` with the two fields that follow it only when it is 1. -/
inductive Selector
  | tableSelect (t : BitVec 5)
  | count1Select (b : BitVec 1)
  | longBlock
  | windowSwitched (blockType : BitVec 2) (mixed : BitVec 1)
  deriving DecidableEq, Repr

/-- The pseudo-instructions (R161): notation of the host, without a command word of their own. -/
inductive Pseudo
  | readbit
  | nextHeader
  | setEqualizer (values : Vector (BitVec 32) 32)
  | decodeNext
  deriving DecidableEq, Repr

/-- What an instruction is decoded from: a command word, the header word at the bit cursor, a selector of the
granule record, or the host's notation. -/
inductive Fetched
  | command (w : CmdWord)
  | header (w : HeaderWord)
  | selector (x : Selector)
  | pseudo (p : Pseudo)
  deriving DecidableEq, Repr

end Sys2Proof
end

