-- ==== Sys2Proof/Decode.lean ====
section
/-! DEFINITION. The decoder, total on whatever is fetched (`decode`) and on raw bits (`decodeBits`, which rejects by
name), and after it the encoder, both from the layouts of 30_encoding.md and the rows of spec/opcode_table.json. -/

namespace Sys2Proof

/-! ## Fields (R121, R131) -/

def cmdOp (w : CmdWord) : BitVec 8 := w.extractLsb' 56 8
def cmdA (w : CmdWord) : BitVec 8 := w.extractLsb' 48 8
def cmdRsv (w : CmdWord) : BitVec 16 := w.extractLsb' 32 16
def cmdD (w : CmdWord) : BitVec 32 := w.extractLsb' 0 32

/-- The fields of a header word at the bit positions of R131. -/
def splitHeader (w : HeaderWord) : HeaderFields where
  sync := w.extractLsb' 21 11
  versionId := w.extractLsb' 19 2
  layerCode := w.extractLsb' 17 2
  protection := w.extractLsb' 16 1
  bitrateIndex := w.extractLsb' 12 4
  rateIndex := w.extractLsb' 10 2
  padding := w.extractLsb' 9 1
  privateBit := w.extractLsb' 8 1
  mode := w.extractLsb' 6 2
  modeExt := w.extractLsb' 4 2
  copyright := w.extractLsb' 3 1
  original := w.extractLsb' 2 1
  emphasis := w.extractLsb' 0 2

/-- The header word of its fields, first field most significant (R10, R131). -/
def joinHeader (h : HeaderFields) : HeaderWord :=
  (h.sync ++ h.versionId ++ h.layerCode ++ h.protection ++ h.bitrateIndex ++ h.rateIndex ++ h.padding ++
    h.privateBit ++ h.mode ++ h.modeExt ++ h.copyright ++ h.original ++ h.emphasis :
    BitVec (11 + 2 + 2 + 1 + 4 + 2 + 1 + 1 + 2 + 2 + 1 + 1 + 2))

/-! ## The rows of the header word -/

/-- The nine `HDR` rows of the opcode table. -/
inductive HeaderClass
  | noSync
  | rsvVersion
  | rsvLayer
  | rsvBitrate
  | rsvRate
  | freeFormat
  | layer1
  | layer2
  | layer3
  deriving DecidableEq, Repr

/-- `SyncOk` (R203): the first `SYNC_BITS` bits are ones; bit 20 is the first bit of `version_id`. -/
def syncOk (sb : SyncBits) (h : HeaderFields) : Bool :=
  match sb with
  | .eleven => h.sync == 0x7FF
  | .twelve => h.sync == 0x7FF && h.versionId.getLsbD 1

/-- The row of a header word: the first test of R201 that fails, else its layer (R204 to R207, R216). -/
def headerClass (sb : SyncBits) (h : HeaderFields) : HeaderClass :=
  if ¬ syncOk sb h then .noSync
  else if h.versionId = 1 then .rsvVersion
  else if h.layerCode = 0 then .rsvLayer
  else if h.bitrateIndex = 15 then .rsvBitrate
  else if h.rateIndex = 3 then .rsvRate
  else if h.bitrateIndex = 0 then .freeFormat
  else if h.layerCode = 3 then .layer1
  else if h.layerCode = 2 then .layer2
  else .layer3

/-! ## Level 1: command words -/

/-- Decode a command word by the `legal_mask` and `legal_match` of its row (R121, R122, R126).
An operand that the row admits but the command refuses (`READBITS 0`, a sink or selector out of range) stays an
operand: the command's own rule ends it with `IllegalCommand`. -/
def decodeCommand (w : CmdWord) : Instr :=
  let op := cmdOp w
  let a := cmdA w
  let d := cmdD w
  if cmdRsv w ≠ 0 then .illegalCmd w
  else if op = 0x10 then (if d = 0 then .readbits a else .illegalCmd w)
  else if op = 0x30 then .eqSetband a d
  else if op = 0x50 then .getParam a d
  else if a ≠ 0 then .illegalCmd w
  else if op = 0x40 then .setOutput d
  else if d ≠ 0 then .illegalCmd w
  else if op = 0x01 then .reset
  else if op = 0x02 then .reinit
  else if op = 0x03 then .restart
  else if op = 0x11 then .sync
  else if op = 0x12 then .parseHeader
  else if op = 0x20 then .decodeFrame
  else if op = 0x31 then .eqApply
  else .illegalCmd w

/-! ## Level 2: header words -/

/-- The instruction of a header row with its fields (R133, R136). -/
def headerRow (c : HeaderClass) (h : HeaderFields) : Instr :=
  match c with
  | .noSync => .hdrNoSync h
  | .rsvVersion => .hdrRsvVersion h
  | .rsvLayer => .hdrRsvLayer h
  | .rsvBitrate => .hdrRsvBitrate h
  | .rsvRate => .hdrRsvRate h
  | .freeFormat => .hdrFreeFormat h
  | .layer1 => .frameL1 h
  | .layer2 => .frameL2 h
  | .layer3 => .frameL3 h

/-- Decode a header word into its row, in the test order of R201. -/
def decodeHeader (sb : SyncBits) (w : HeaderWord) : Instr :=
  headerRow (headerClass sb (splitHeader w)) (splitHeader w)

/-! ## Level 3: selectors -/

/-- The row of each `table_select` value (R362), in order. -/
def tselRows : List Instr :=
  [.tsel0, .tsel1, .tsel2, .tsel3, .tsel4, .tsel5, .tsel6, .tsel7,
   .tsel8, .tsel9, .tsel10, .tsel11, .tsel12, .tsel13, .tsel14, .tsel15] ++
  [.tsel16, .tsel17, .tsel18, .tsel19, .tsel20, .tsel21, .tsel22, .tsel23,
   .tsel24, .tsel25, .tsel26, .tsel27, .tsel28, .tsel29, .tsel30, .tsel31]

/-- Decode a selector of the granule record (R142, R144, R323, R362, R368). -/
def decodeSelector : Selector → Instr
  | .tableSelect t => tselRows.getD t.toNat .tsel0
  | .count1Select b => if b = 0 then .count1A else .count1B
  | .longBlock => .blkNormal
  | .windowSwitched bt m =>
    if bt = 0 then .blkReserved m
    else if bt = 1 then .blkStart m
    else if bt = 2 then (if m = 0 then .blkShort else .blkMixed)
    else .blkStop m

/-- The pseudo-instruction a notation of the host names (R161). -/
def decodePseudo : Pseudo → Instr
  | .readbit => .readbit
  | .nextHeader => .nextHeader
  | .setEqualizer v => .setEqualizer v
  | .decodeNext => .decodeNext

/-- The instruction that a fetched item stands for; total. -/
def decode (sb : SyncBits) : Fetched → Instr
  | .command w => decodeCommand w
  | .header w => decodeHeader sb w
  | .selector x => decodeSelector x
  | .pseudo p => decodePseudo p

/-! ## The encoder -/

/-- A command word from its opcode and operands, reserved bits 0 (R121). -/
def cmdWord (op a : BitVec 8) (d : BitVec 32) : CmdWord :=
  (op ++ a ++ 0#16 ++ d : BitVec (8 + 8 + 16 + 32))

/-- The words of an instruction. -/
def encode : Instr → Fetched
  | .reset => .command (cmdWord 0x01 0 0)
  | .reinit => .command (cmdWord 0x02 0 0)
  | .restart => .command (cmdWord 0x03 0 0)
  | .readbits n => .command (cmdWord 0x10 n 0)
  | .sync => .command (cmdWord 0x11 0 0)
  | .parseHeader => .command (cmdWord 0x12 0 0)
  | .decodeFrame => .command (cmdWord 0x20 0 0)
  | .eqSetband i v => .command (cmdWord 0x30 i v)
  | .eqApply => .command (cmdWord 0x31 0 0)
  | .setOutput d => .command (cmdWord 0x40 0 d)
  | .getParam sel idx => .command (cmdWord 0x50 sel idx)
  | .illegalCmd w => .command w
  | .readbit => .pseudo .readbit
  | .nextHeader => .pseudo .nextHeader
  | .setEqualizer v => .pseudo (.setEqualizer v)
  | .decodeNext => .pseudo .decodeNext
  | .frameL1 h => .header (joinHeader h)
  | .frameL2 h => .header (joinHeader h)
  | .frameL3 h => .header (joinHeader h)
  | .hdrNoSync h => .header (joinHeader h)
  | .hdrRsvVersion h => .header (joinHeader h)
  | .hdrRsvLayer h => .header (joinHeader h)
  | .hdrRsvBitrate h => .header (joinHeader h)
  | .hdrRsvRate h => .header (joinHeader h)
  | .hdrFreeFormat h => .header (joinHeader h)
  | .blkNormal => .selector .longBlock
  | .blkStart m => .selector (.windowSwitched 1 m)
  | .blkShort => .selector (.windowSwitched 2 0)
  | .blkMixed => .selector (.windowSwitched 2 1)
  | .blkStop m => .selector (.windowSwitched 3 m)
  | .blkReserved m => .selector (.windowSwitched 0 m)
  | .tsel0 => .selector (.tableSelect 0)
  | .tsel1 => .selector (.tableSelect 1)
  | .tsel2 => .selector (.tableSelect 2)
  | .tsel3 => .selector (.tableSelect 3)
  | .tsel4 => .selector (.tableSelect 4)
  | .tsel5 => .selector (.tableSelect 5)
  | .tsel6 => .selector (.tableSelect 6)
  | .tsel7 => .selector (.tableSelect 7)
  | .tsel8 => .selector (.tableSelect 8)
  | .tsel9 => .selector (.tableSelect 9)
  | .tsel10 => .selector (.tableSelect 10)
  | .tsel11 => .selector (.tableSelect 11)
  | .tsel12 => .selector (.tableSelect 12)
  | .tsel13 => .selector (.tableSelect 13)
  | .tsel14 => .selector (.tableSelect 14)
  | .tsel15 => .selector (.tableSelect 15)
  | .tsel16 => .selector (.tableSelect 16)
  | .tsel17 => .selector (.tableSelect 17)
  | .tsel18 => .selector (.tableSelect 18)
  | .tsel19 => .selector (.tableSelect 19)
  | .tsel20 => .selector (.tableSelect 20)
  | .tsel21 => .selector (.tableSelect 21)
  | .tsel22 => .selector (.tableSelect 22)
  | .tsel23 => .selector (.tableSelect 23)
  | .tsel24 => .selector (.tableSelect 24)
  | .tsel25 => .selector (.tableSelect 25)
  | .tsel26 => .selector (.tableSelect 26)
  | .tsel27 => .selector (.tableSelect 27)
  | .tsel28 => .selector (.tableSelect 28)
  | .tsel29 => .selector (.tableSelect 29)
  | .tsel30 => .selector (.tableSelect 30)
  | .tsel31 => .selector (.tableSelect 31)
  | .count1A => .selector (.count1Select 0)
  | .count1B => .selector (.count1Select 1)

/-! ## Raw bits -/

/-- Why raw bits are no instruction. -/
inductive DecodeReject
  /-- no row of the table has this many bits -/
  | wrongWidth (nbits : Nat)
  /-- the value does not fit the width -/
  | tooLarge (w : Nat)
  /-- a byte that packs no selector -/
  | notASelector (w : Nat)
  deriving DecidableEq, Repr

/-- A selector in one byte. The spec gives a selector no byte of its own (it lies inside the granule record), so
this packing is the model's: 000ttttt a `table_select`, 0100000b a `count1table_select`, 10000000 the flag 0, and
10001ttm the flag 1 with `block_type` and `mixed_block_flag`. -/
def selectorOfByte (w : Nat) : Option Selector :=
  if w < 32 then some (.tableSelect (BitVec.ofNat 5 w))
  else if w = 0x40 then some (.count1Select 0)
  else if w = 0x41 then some (.count1Select 1)
  else if w = 0x80 then some .longBlock
  else if 0x88 ≤ w ∧ w < 0x90 then
    some (.windowSwitched (BitVec.ofNat 2 (w / 2 % 4)) (BitVec.ofNat 1 (w % 2)))
  else none

/-- What `nbits` bits with value `w` (bit 0 the least significant) present to the decoder. -/
def fetchedOfBits (nbits w : Nat) : Except DecodeReject Fetched :=
  if nbits = 64 then
    if w < 2 ^ 64 then .ok (.command (BitVec.ofNat 64 w)) else .error (.tooLarge w)
  else if nbits = 32 then
    if w < 2 ^ 32 then .ok (.header (BitVec.ofNat 32 w)) else .error (.tooLarge w)
  else if nbits = 8 then
    match selectorOfByte w with
    | some x => .ok (.selector x)
    | none => .error (.notASelector w)
  else .error (.wrongWidth nbits)

/-- Decode raw bits, rejecting by name. -/
def decodeBits (sb : SyncBits) (nbits w : Nat) : Except DecodeReject Instr :=
  match fetchedOfBits nbits w with
  | .ok f => .ok (decode sb f)
  | .error e => .error e

/-- The decoder on a row's bits, as spec/opcode_table.json numbers them; the table's header rows are those of
`SYNC_BITS` = 11 (R155). -/
def decodeTableWord (nbits w : Nat) : Option Instr :=
  match decodeBits .eleven nbits w with
  | .ok i => some i
  | .error _ => none

end Sys2Proof
end

