-- ==== Sys2Proof/Machine/Num.lean ====
section
/-! DEFINITION. Arithmetic in the number system `NUM` (R8, R12): every operation computes its exact result and rounds it
once, to nearest even, into the format. -/

namespace Sys2Proof

/-- The fraction bits of a format: one less than its precision. -/
def NumSystem.fracBits : NumSystem → Nat
  | .binary32 => 23
  | .binary64 => 52
  | .binary128 => 112

/-- The bits of the exponent field. -/
def NumSystem.expBits : NumSystem → Nat
  | .binary32 => 8
  | .binary64 => 11
  | .binary128 => 15

/-- The largest exponent of a finite value's leading bit. -/
def NumSystem.emax (n : NumSystem) : Nat := 2 ^ (n.expBits - 1) - 1

/-- The exponent of the smallest positive value. -/
def NumSystem.qmin (n : NumSystem) : Int := 1 - (n.emax : Int) - n.fracBits

end Sys2Proof

namespace Sys2Proof.Machine.Num

/-! ## Constants -/

def zero : Sample := .fin false 0 0
def half : Sample := .fin false 1 (-1)
def one : Sample := .fin false 1 0
def two : Sample := .fin false 1 1
def minusOne : Sample := .fin true 1 0
/-- The largest and the smallest PCM value, and the default of `OUT_SCALE` (R254, R255). -/
def pcmMax : Sample := .fin false 32767 0
def pcmMin : Sample := .fin true 1 15
def fullScale : Sample := .fin false 1 15

/-! ## Rounding -/

/-- (-1)^s * m * 2^e written with an odd m. -/
def canonical (s : Bool) (m : Nat) (e : Int) : Sample :=
  if m = 0 then .fin s 0 0
  else
    let g := Nat.gcd m (2 ^ Nat.log2 m)
    .fin s (m / g) (e + Nat.log2 g)

/-- m / 2^d to the nearest integer, ties to even. -/
def roundShift (m d : Nat) : Nat :=
  let p := 2 ^ d
  let low := m / p
  let rem := 2 * (m % p)
  if rem > p ∨ (rem = p ∧ low % 2 = 1) then low + 1 else low

/-- The value of the format nearest to (-1)^s * m * 2^e, ties to even; overflow gives an infinity. -/
def pack (n : NumSystem) (s : Bool) (m : Nat) (e : Int) : Sample :=
  if m = 0 then .fin s 0 0
  else
    let q : Int := max (e + (Nat.log2 m : Int) - n.fracBits) n.qmin
    if q ≤ e then
      if (n.emax : Int) < e + Nat.log2 m then .inf s else canonical s m e
    else
      let k := roundShift m (q - e).toNat
      if (n.emax : Int) < q + Nat.log2 k then .inf s else canonical s k q

/-- A value rounded into the format. -/
def round (n : NumSystem) (x : Sample) : Sample :=
  match x with
  | .fin s m e => pack n s m e
  | .inf s => .inf s
  | .nan => .nan

def isNaN (x : Sample) : Bool := x == .nan

def isFinite (x : Sample) : Bool :=
  match x with
  | .fin _ _ _ => true
  | .inf _ | .nan => false

def signedInt (s : Bool) (m : Nat) : Int := if s then -(m : Int) else m

/-! ## Operations -/

def neg (x : Sample) : Sample :=
  match x with
  | .fin s m e => .fin (!s) m e
  | .inf s => .inf (!s)
  | .nan => .nan

def add (n : NumSystem) (x y : Sample) : Sample :=
  match x, y with
  | .nan, _ => .nan
  | _, .nan => .nan
  | .inf s, .inf t => if s = t then .inf s else .nan
  | .inf s, .fin _ _ _ => .inf s
  | .fin _ _ _, .inf t => .inf t
  | .fin s m e, .fin t k f =>
    let g := min e f
    let c := signedInt s (m * 2 ^ (e - g).toNat) + signedInt t (k * 2 ^ (f - g).toNat)
    if c = 0 then .fin (s && t) 0 0 else pack n (decide (c < 0)) c.natAbs g

def sub (n : NumSystem) (x y : Sample) : Sample := add n x (neg y)

def mul (n : NumSystem) (x y : Sample) : Sample :=
  match x, y with
  | .nan, _ => .nan
  | _, .nan => .nan
  | .inf s, .inf t => .inf (s != t)
  | .inf s, .fin t k _ => if k = 0 then .nan else .inf (s != t)
  | .fin s m _, .inf t => if m = 0 then .nan else .inf (s != t)
  | .fin s m e, .fin t k f => pack n (s != t) (m * k) (e + f)

/-- The exact quotient m / d of natural numbers times 2^e, rounded once: at least 256 bits of it and a sticky bit. -/
def packRatio (n : NumSystem) (s : Bool) (m d : Nat) (e : Int) : Sample :=
  let extra := 256 + Nat.log2 d
  let w := m * 2 ^ extra
  pack n s (2 * (w / d) + (if w % d = 0 then 0 else 1)) (e - extra - 1)

def div (n : NumSystem) (x y : Sample) : Sample :=
  match x, y with
  | .nan, _ => .nan
  | _, .nan => .nan
  | .inf _, .inf _ => .nan
  | .inf s, .fin t _ _ => .inf (s != t)
  | .fin s _ _, .inf t => .fin (s != t) 0 0
  | .fin s m e, .fin t k f =>
    if k = 0 then (if m = 0 then .nan else .inf (s != t))
    else packRatio n (s != t) m k (e - f)

/-- The order; both zeros are equal, and nothing is ordered with what is not a number. -/
def le (x y : Sample) : Bool :=
  match x, y with
  | .nan, _ => false
  | _, .nan => false
  | .inf s, .inf t => s || !t
  | .inf s, .fin _ _ _ => s
  | .fin _ _ _, .inf t => !t
  | .fin s m e, .fin t k f =>
    let g := min e f
    decide (signedInt s (m * 2 ^ (e - g).toNat) ≤ signedInt t (k * 2 ^ (f - g).toNat))

/-! ## Conversions -/

/-- The integer z times 2^e, rounded once. -/
def dyadic (n : NumSystem) (z e : Int) : Sample := pack n (decide (z < 0)) z.natAbs e

def ofNat (n : NumSystem) (k : Nat) : Sample := pack n false k 0

/-- The value of a bit pattern of a format (bits above the format's width do not count). -/
def ofPattern (n : NumSystem) (w : Nat) : Sample :=
  let s := w.testBit (n.expBits + n.fracBits)
  let fr := w % 2 ^ n.fracBits
  let ex := w / 2 ^ n.fracBits % 2 ^ n.expBits
  if ex = 2 ^ n.expBits - 1 then (if fr = 0 then .inf s else .nan)
  else if ex = 0 then canonical s fr n.qmin
  else canonical s (2 ^ n.fracBits + fr) (n.qmin + ex - 1)

/-- A binary32 pattern as a value of `NUM`, exactly when representable, else to nearest (R123). -/
def ofBinary32 (n : NumSystem) (w : BitVec 32) : Sample := round n (ofPattern .binary32 w.toNat)

/-- The binary32 pattern nearest to a value (R456); what is not a number has one pattern (log entry 3). -/
def toBinary32 (x : Sample) : BitVec 32 :=
  let sign (s : Bool) : Nat := if s then 2 ^ 31 else 0
  match round .binary32 x with
  | .nan => 0x7FC00000
  | .inf s => BitVec.ofNat 32 (sign s + 0x7F800000)
  | .fin s m e =>
    if m = 0 then BitVec.ofNat 32 (sign s)
    else
      let q := max (e + (Nat.log2 m : Int) - 23) (-149)
      BitVec.ofNat 32 (sign s + (q + 149).toNat * 2 ^ 23 + m * 2 ^ (e - q).toNat)

/-- The integer below or at a finite value; 0 for the others. -/
def floor (x : Sample) : Int :=
  match x with
  | .fin s m e => if 0 ≤ e then signedInt s (m * 2 ^ e.toNat) else signedInt s m / (2 ^ (-e).toNat : Nat)
  | .inf _ | .nan => 0

/-- A finite value without its fraction; 0 for the others. -/
def truncate (x : Sample) : Int :=
  match x with
  | .fin s m e => signedInt s (if 0 ≤ e then m * 2 ^ e.toNat else m / 2 ^ (-e).toNat)
  | .inf _ | .nan => 0

/-- `ToPcm` (R255). -/
def toPcm (n : NumSystem) (mode : PcmRound) (x : Sample) : Pcm :=
  if isNaN x then 0
  else if le pcmMax x then 32767#16
  else if le x pcmMin then 0x8000#16
  else
    match mode with
    | .truncate => BitVec.ofInt 16 (truncate x)
    | .nearest => BitVec.ofInt 16 (floor (add n x half))

end Sys2Proof.Machine.Num
end

