-- ==== Sys2Proof/Machine/Tables.lean ====
section
/-! DEFINITION. The tables that the spec prints (`ROM`, R80): the header tables, and the defaults of the tables that are
parameters (R8): scale-factor bands, allocation tables, quantisation classes, code books. What reads a parameter table
takes it from the configuration (log entry 7). -/

namespace Sys2Proof.Machine

/-! ## Header tables (R206, R207) -/

/-- Bitrates in kbit/s for `bitrate_index` 0..15; 0 stands where the index is refused. -/
def kbpsV1L1 : List Nat := [0, 32, 64, 96, 128, 160, 192, 224, 256, 288, 320, 352, 384, 416, 448, 0]
def kbpsV1L2 : List Nat := [0, 32, 48, 56, 64, 80, 96, 112, 128, 160, 192, 224, 256, 320, 384, 0]
def kbpsV1L3 : List Nat := [0, 32, 40, 48, 56, 64, 80, 96, 112, 128, 160, 192, 224, 256, 320, 0]
def kbpsLsfL1 : List Nat := [0, 32, 48, 56, 64, 80, 96, 112, 128, 144, 160, 176, 192, 224, 256, 0]
def kbpsLsfL23 : List Nat := [0, 8, 16, 24, 32, 40, 48, 56, 64, 80, 96, 112, 128, 144, 160, 0]

/-- Sample rates in Hz for `rate_index` 0..3, by version 1, 2, 3. -/
def ratesHz (version : Nat) : List Nat :=
  if version = 1 then [44100, 48000, 32000, 0]
  else if version = 2 then [22050, 24000, 16000, 0]
  else [11025, 12000, 8000, 0]

/-! ## Layer II: the defaults of `L2_ALLOC` and `L2_QUANT` (R293, R300) -/

def allocA : List AllocRow :=
  [⟨3, 4, [0, 2, 4, 5, 6, 7, 8, 9, 10, 11, 12, 13, 14, 15, 16]⟩,
   ⟨8, 4, [0, 1, 2, 3, 4, 5, 6, 7, 8, 9, 10, 11, 12, 13, 16]⟩,
   ⟨12, 3, [0, 1, 2, 3, 4, 5, 16]⟩,
   ⟨4, 2, [0, 1, 16]⟩]
def allocB : List AllocRow :=
  [⟨3, 4, [0, 2, 4, 5, 6, 7, 8, 9, 10, 11, 12, 13, 14, 15, 16]⟩,
   ⟨8, 4, [0, 1, 2, 3, 4, 5, 6, 7, 8, 9, 10, 11, 12, 13, 16]⟩,
   ⟨12, 3, [0, 1, 2, 3, 4, 5, 16]⟩,
   ⟨7, 2, [0, 1, 16]⟩]
def allocC : List AllocRow :=
  [⟨2, 4, [0, 1, 3, 4, 5, 6, 7, 8, 9, 10, 11, 12, 13, 14, 15]⟩,
   ⟨6, 3, [0, 1, 3, 4, 5, 6, 7]⟩]
def allocD : List AllocRow :=
  [⟨2, 4, [0, 1, 3, 4, 5, 6, 7, 8, 9, 10, 11, 12, 13, 14, 15]⟩,
   ⟨10, 3, [0, 1, 3, 4, 5, 6, 7]⟩]
def allocLsf : List AllocRow :=
  [⟨4, 4, [0, 1, 2, 3, 4, 5, 6, 7, 8, 9, 10, 11, 12, 13, 14]⟩,
   ⟨7, 3, [0, 1, 3, 4, 5, 6, 7]⟩,
   ⟨19, 2, [0, 1, 3]⟩]

def defaultAlloc : AllocTables := { a := allocA, b := allocB, c := allocC, d := allocD, lsf := allocLsf }

def defaultQuant : Vector QuantClass 17 :=
  #v[⟨3, 2, some 5, 1⟩, ⟨5, 3, some 7, 1⟩, ⟨7, 3, none, 2⟩, ⟨9, 4, some 10, 1⟩, ⟨15, 4, none, 3⟩, ⟨31, 5, none, 4⟩,
    ⟨63, 6, none, 5⟩, ⟨127, 7, none, 6⟩, ⟨255, 8, none, 7⟩, ⟨511, 9, none, 8⟩, ⟨1023, 10, none, 9⟩,
    ⟨2047, 11, none, 10⟩, ⟨4095, 12, none, 11⟩, ⟨8191, 13, none, 12⟩, ⟨16383, 14, none, 13⟩, ⟨32767, 15, none, 14⟩,
    ⟨65535, 16, none, 15⟩]

/-! ## Layer III scale factors (R336, R340, R342, R343) -/

def slen1Table : List Nat := [0, 0, 0, 0, 3, 1, 1, 1, 2, 2, 2, 3, 3, 3, 4, 4]
def slen2Table : List Nat := [0, 1, 2, 3, 0, 1, 2, 3, 1, 2, 3, 1, 2, 3, 2, 3]

/-- `NR_OF_SFB[tbl][bk]`. -/
def nrOfSfb : List (List (List Nat)) :=
  [[[6, 5, 5, 5], [9, 9, 9, 9], [6, 9, 9, 9]],
   [[6, 5, 7, 3], [9, 9, 12, 6], [6, 9, 12, 6]],
   [[11, 10, 0, 0], [18, 18, 0, 0], [15, 18, 0, 0]],
   [[7, 7, 7, 0], [12, 12, 12, 0], [6, 15, 12, 0]],
   [[6, 6, 6, 3], [12, 9, 9, 6], [6, 12, 9, 6]],
   [[8, 8, 5, 0], [15, 12, 9, 0], [6, 18, 9, 0]]]

def pretab : List Nat := [0, 0, 0, 0, 0, 0, 0, 0, 0, 0, 0, 1, 1, 1, 1, 2, 2, 3, 3, 3, 2, 0]

/-- The value for a sample rate in Hz (R343). A rate that is none of the nine takes the last (no rule meets one). -/
def atRate {α : Type} (t : PerRate α) (rate : Nat) : α :=
  if rate = 44100 then t.r44100
  else if rate = 48000 then t.r48000
  else if rate = 32000 then t.r32000
  else if rate = 22050 then t.r22050
  else if rate = 24000 then t.r24000
  else if rate = 16000 then t.r16000
  else if rate = 11025 then t.r11025
  else if rate = 12000 then t.r12000
  else t.r8000

/-- Three rates of MPEG-2 and MPEG-2.5 share both rows, 22050 Hz the long one only. -/
def sfbLongLsf : Vector Nat 23 :=
  #v[0, 6, 12, 18, 24, 30, 36, 44, 54, 66, 80, 96, 116, 140, 168, 200, 238, 284, 336, 396, 464, 522, 576]
def sfbShortLsf : Vector Nat 14 := #v[0, 4, 8, 12, 18, 26, 36, 48, 62, 80, 104, 134, 174, 192]

/-- The default of `SFB_LONG`. -/
def defaultSfbLong : PerRate (Vector Nat 23) where
  r44100 := #v[0, 4, 8, 12, 16, 20, 24, 30, 36, 44, 52, 62, 74, 90, 110, 134, 162, 196, 238, 288, 342, 418, 576]
  r48000 := #v[0, 4, 8, 12, 16, 20, 24, 30, 36, 42, 50, 60, 72, 88, 106, 128, 156, 190, 230, 276, 330, 384, 576]
  r32000 := #v[0, 4, 8, 12, 16, 20, 24, 30, 36, 44, 54, 66, 82, 102, 126, 156, 194, 240, 296, 364, 448, 550, 576]
  r22050 := sfbLongLsf
  r24000 := #v[0, 6, 12, 18, 24, 30, 36, 44, 54, 66, 80, 96, 114, 136, 162, 194, 232, 278, 332, 394, 464, 540, 576]
  r16000 := sfbLongLsf
  r11025 := sfbLongLsf
  r12000 := sfbLongLsf
  r8000 := #v[0, 12, 24, 36, 48, 60, 72, 88, 108, 132, 160, 192, 232, 280, 336, 400, 476, 566, 568, 570, 572, 574, 576]

/-- The default of `SFB_SHORT`. -/
def defaultSfbShort : PerRate (Vector Nat 14) where
  r44100 := #v[0, 4, 8, 12, 16, 22, 30, 40, 52, 66, 84, 106, 136, 192]
  r48000 := #v[0, 4, 8, 12, 16, 22, 28, 38, 50, 64, 80, 100, 126, 192]
  r32000 := #v[0, 4, 8, 12, 16, 22, 30, 42, 58, 78, 104, 138, 180, 192]
  r22050 := #v[0, 4, 8, 12, 18, 24, 32, 42, 56, 74, 100, 132, 174, 192]
  r24000 := #v[0, 4, 8, 12, 18, 26, 36, 48, 62, 80, 104, 136, 180, 192]
  r16000 := sfbShortLsf
  r11025 := sfbShortLsf
  r12000 := sfbShortLsf
  r8000 := #v[0, 8, 16, 24, 36, 52, 72, 96, 124, 160, 162, 164, 166, 192]

/-- The boundaries that a configuration gives to a sample rate in Hz. -/
def sfbLong (c : Config) (rate : Nat) : List Nat := (atRate c.sfbLong rate).toList
def sfbShort (c : Config) (rate : Nat) : List Nat := (atRate c.sfbShort rate).toList

/-! ## Code books (R364, R368) -/

/-- One code word: its value, its length in bits, and the word, first bit most significant. -/
structure CodeWord (α : Type) where
  value : α
  hlen : Nat
  hcod : Nat
  deriving DecidableEq, Repr

/-! Codebooks 1, 2, 3, 5 and 6: the defaults of `HUFF_PAIR`. -/

def pairBook1 : List (HuffEntry 2) :=
  [⟨0, 0, 1, 0b1⟩, ⟨0, 1, 3, 0b001⟩,
   ⟨1, 0, 2, 0b01⟩, ⟨1, 1, 3, 0b000⟩]

def pairBook2 : List (HuffEntry 3) :=
  [⟨0, 0, 1, 0b1⟩, ⟨0, 1, 3, 0b010⟩, ⟨0, 2, 6, 0b000001⟩,
   ⟨1, 0, 3, 0b011⟩, ⟨1, 1, 3, 0b001⟩, ⟨1, 2, 5, 0b00001⟩,
   ⟨2, 0, 5, 0b00011⟩, ⟨2, 1, 5, 0b00010⟩, ⟨2, 2, 6, 0b000000⟩]

def pairBook3 : List (HuffEntry 3) :=
  [⟨0, 0, 2, 0b11⟩, ⟨0, 1, 2, 0b10⟩, ⟨0, 2, 6, 0b000001⟩,
   ⟨1, 0, 3, 0b001⟩, ⟨1, 1, 2, 0b01⟩, ⟨1, 2, 5, 0b00001⟩,
   ⟨2, 0, 5, 0b00011⟩, ⟨2, 1, 5, 0b00010⟩, ⟨2, 2, 6, 0b000000⟩]

def pairBook5 : List (HuffEntry 4) :=
  [⟨0, 0, 1, 0b1⟩, ⟨0, 1, 3, 0b010⟩, ⟨0, 2, 6, 0b000110⟩, ⟨0, 3, 7, 0b0000101⟩,
   ⟨1, 0, 3, 0b011⟩, ⟨1, 1, 3, 0b001⟩, ⟨1, 2, 6, 0b000100⟩, ⟨1, 3, 7, 0b0000100⟩,
   ⟨2, 0, 6, 0b000111⟩, ⟨2, 1, 6, 0b000101⟩, ⟨2, 2, 7, 0b0000111⟩, ⟨2, 3, 8, 0b00000001⟩,
   ⟨3, 0, 7, 0b0000110⟩, ⟨3, 1, 6, 0b000001⟩, ⟨3, 2, 7, 0b0000001⟩, ⟨3, 3, 8, 0b00000000⟩]

def pairBook6 : List (HuffEntry 4) :=
  [⟨0, 0, 3, 0b111⟩, ⟨0, 1, 3, 0b011⟩, ⟨0, 2, 5, 0b00101⟩, ⟨0, 3, 7, 0b0000001⟩,
   ⟨1, 0, 3, 0b110⟩, ⟨1, 1, 2, 0b10⟩, ⟨1, 2, 4, 0b0011⟩, ⟨1, 3, 5, 0b00010⟩,
   ⟨2, 0, 4, 0b0101⟩, ⟨2, 1, 4, 0b0100⟩, ⟨2, 2, 5, 0b00100⟩, ⟨2, 3, 6, 0b000001⟩,
   ⟨3, 0, 6, 0b000011⟩, ⟨3, 1, 5, 0b00011⟩, ⟨3, 2, 6, 0b000010⟩, ⟨3, 3, 7, 0b0000000⟩]

/-- The default of `HUFF_QUAD[A]`; the value is q = 8v + 4w + 2x + y. -/
def quadBookA : List QuadEntry :=
  [⟨0, 1, 0b1⟩, ⟨1, 4, 0b0101⟩, ⟨2, 4, 0b0100⟩, ⟨3, 5, 0b00101⟩,
   ⟨4, 4, 0b0110⟩, ⟨5, 6, 0b000101⟩, ⟨6, 5, 0b00100⟩, ⟨7, 6, 0b000100⟩,
   ⟨8, 4, 0b0111⟩, ⟨9, 5, 0b00011⟩, ⟨10, 5, 0b00110⟩, ⟨11, 6, 0b000000⟩,
   ⟨12, 5, 0b00111⟩, ⟨13, 6, 0b000010⟩, ⟨14, 6, 0b000011⟩, ⟨15, 6, 0b000001⟩]

/-- The default of `HUFF_QUAD[B]`; the value is q = 8v + 4w + 2x + y. -/
def quadBookB : List QuadEntry :=
  [⟨0, 4, 0b1111⟩, ⟨1, 4, 0b1110⟩, ⟨2, 4, 0b1101⟩, ⟨3, 4, 0b1100⟩,
   ⟨4, 4, 0b1011⟩, ⟨5, 4, 0b1010⟩, ⟨6, 4, 0b1001⟩, ⟨7, 4, 0b1000⟩,
   ⟨8, 4, 0b0111⟩, ⟨9, 4, 0b0110⟩, ⟨10, 4, 0b0101⟩, ⟨11, 4, 0b0100⟩,
   ⟨12, 4, 0b0011⟩, ⟨13, 4, 0b0010⟩, ⟨14, 4, 0b0001⟩, ⟨15, 4, 0b0000⟩]

/-- The default of `HUFF_PAIR` and `HUFF_QUAD`: the printed codebooks, and free values where none is printed. -/
def defaultBooks : HuffBooks :=
  { Config.openBooks with
    b1 := pairBook1
    b2 := pairBook2
    b3 := pairBook3
    b5 := pairBook5
    b6 := pairBook6
    quadA := quadBookA
    quadB := quadBookB }

/-- The code words of a pair codebook and of a quad codebook. -/
def pairWords {n : Nat} (b : List (HuffEntry n)) : List (CodeWord (Nat × Nat)) :=
  b.map fun e => ⟨(e.x.val, e.y.val), e.hlen.val, e.hcod.toNat⟩
def quadWords (b : List QuadEntry) : List (CodeWord Nat) := b.map fun e => ⟨e.q.val, e.hlen.val, e.hcod.toNat⟩

/-- `HUFF_PAIR[b]` (R364). -/
def pairBook (c : Config) (b : Nat) : List (CodeWord (Nat × Nat)) :=
  match b with
  | 1 => pairWords c.books.b1
  | 2 => pairWords c.books.b2
  | 3 => pairWords c.books.b3
  | 5 => pairWords c.books.b5
  | 6 => pairWords c.books.b6
  | 7 => pairWords c.books.b7
  | 8 => pairWords c.books.b8
  | 9 => pairWords c.books.b9
  | 10 => pairWords c.books.b10
  | 11 => pairWords c.books.b11
  | 12 => pairWords c.books.b12
  | 13 => pairWords c.books.b13
  | 15 => pairWords c.books.b15
  | 16 => pairWords c.books.b16
  | 24 => pairWords c.books.b24
  | _ => []

/-- `HUFF_QUAD[A]` for 0 and `HUFF_QUAD[B]` for 1 (R368). -/
def quadBook (c : Config) (sel : BitVec 1) : List (CodeWord Nat) :=
  quadWords (if sel = 0 then c.books.quadA else c.books.quadB)

/-- The codebook and the linbits of a `table_select` (R362); `none` for 4 and 14, and for 0, which reads nothing. -/
def tableSelectRow (t : Nat) : Option (Nat × Nat) :=
  if t = 0 ∨ t = 4 ∨ t = 14 then none
  else if t ≤ 15 then some (t, 0)
  else if t ≤ 23 then some (16, [1, 2, 3, 4, 6, 8, 10, 13].getD (t - 16) 0)
  else some (24, [4, 5, 6, 7, 8, 9, 11, 13].getD (t - 24) 0)

end Sys2Proof.Machine

/-- The parameters at the defaults of R8; the window and ten codebooks have none and are free values. -/
def Sys2Proof.Config.default : Sys2Proof.Config where
  num := .binary32
  syncBits := .eleven
  lsfHalveL2 := true
  outScale := Sys2Proof.Machine.Num.fullScale
  pcmRound := .truncate
  brPrefetch := 0
  nSinks := 256
  synthWindow := Sys2Proof.Config.openWindow
  books := Sys2Proof.Machine.defaultBooks
  sfbLong := Sys2Proof.Machine.defaultSfbLong
  sfbShort := Sys2Proof.Machine.defaultSfbShort
  l2Alloc := Sys2Proof.Machine.defaultAlloc
  l2Quant := Sys2Proof.Machine.defaultQuant
end

