-- ==== Sys2Proof/Machine/State.lean ====
section
/-! DEFINITION. The state: every register and buffer of 10_state.md, and beside them what the environment holds
(byte source, sinks, pending requests of the two ports), the parameters, and the loop variables of the Layer III
decoder. Plain data throughout. INVENTORY.md lists every field with its rule and its reset value. -/

namespace Sys2Proof.Machine

/-- Reasons for a stop of the machine. There are none: "every command on every state has a defined next state" (R536)
and every error of the block is a result code (R471, R472). Nobody raises a fault; that is safe. -/
inductive Fault
  deriving DecidableEq, Repr

/-- Reasons to give an instruction no meaning. -/
inductive Refusal
  /-- raised by an arm of `exec` whose instruction is not modelled yet (none is left); safe -/
  | notModelled (mnemonic : String)
  deriving DecidableEq, Repr

/-! ## Registers the host can observe -/

/-- `BR` (R22 to R24). -/
structure BitReader where
  /-- bytes pulled so far -/
  pulled : BitVec 64
  /-- a pull has returned the end-of-data sentinel -/
  eod : Bool
  /-- the bit cursor, alias `pc` -/
  pos : BitVec 64
  deriving DecidableEq, Repr

/-- `HDR` (R26, R27). The thirteen field registers are bit fields of `word` and are read through `Hdr.fields`. -/
structure Hdr where
  word : HeaderWord
  start : BitVec 64
  valid : Bool
  deriving DecidableEq, Repr

/-- `FRM` (R28). -/
structure Frm where
  version : BitVec 2
  layer : BitVec 2
  bitrate : BitVec 32
  rate : BitVec 32
  channels : BitVec 2
  len : BitVec 16
  spf : BitVec 16
  durUs : BitVec 32
  sideBytes : BitVec 8
  vbr : Bool
  deriving DecidableEq, Repr

/-- `SES` (R29, R30). -/
structure Ses where
  init : Bool
  channels : BitVec 2
  rate : BitVec 32
  prevBitrate : BitVec 32
  vbr : Bool
  deriving DecidableEq, Repr

/-- `ST` (R37, R38). `first` is the first warning so far of the command that runs on the command port (R473, R486); it is
apart from `warn` because a command of the equalizer port may end, and latch its own result, meanwhile (log entry 26). -/
structure Status where
  code : BitVec 8
  warn : BitVec 8
  first : BitVec 8
  value : BitVec 32
  gerr : BitVec 32
  deriving DecidableEq, Repr

/-- `SF[ch]` (R32, R33). -/
structure SynthFilter where
  eqf : Vector Sample 32
  v : Vector Sample 1024
  deriving DecidableEq, Repr, Inhabited

/-- `FB` (R40); `FB.len` is the length of `bytes`. -/
structure FrameBuffer where
  bytes : List Byte
  pos : BitVec 32
  deriving DecidableEq, Repr

/-- `LD.made[1..3]` (R44). -/
structure Slots where
  l1 : Bool
  l2 : Bool
  l3 : Bool
  deriving DecidableEq, Repr

/-! ## Transient data-path registers (R45) -/

/-- `L1.*` -/
structure Layer1Regs where
  alloc : Vector (Vector (BitVec 4) 32) 2
  scf : Vector (Vector (BitVec 6) 32) 2
  deriving DecidableEq, Repr

/-- `L2.*` -/
structure Layer2Regs where
  alloc : Vector (Vector (BitVec 4) 32) 2
  scfsi : Vector (Vector (BitVec 2) 32) 2
  scf : Vector (Vector (Vector (BitVec 6) 3) 32) 2
  deriving DecidableEq, Repr

/-- The granule record `SI.g[gr][ch]` (R142, R143). -/
structure Granule where
  part23Length : BitVec 12
  bigValues : BitVec 9
  globalGain : BitVec 8
  scalefacCompress : BitVec 9
  windowSwitching : BitVec 1
  blockType : BitVec 2
  mixedBlock : BitVec 1
  tableSelect : Vector (BitVec 5) 3
  subblockGain : Vector (BitVec 3) 3
  region0Count : BitVec 4
  region1Count : BitVec 4
  preflag : BitVec 1
  scalefacScale : BitVec 1
  count1TableSelect : BitVec 1
  deriving DecidableEq, Repr, Inhabited

/-- `SI.*` (R140, R141). -/
structure SideInfo where
  mainDataBegin : BitVec 9
  scfsi : Vector (Vector (BitVec 1) 4) 2
  g : Vector (Vector Granule 2) 2
  deriving DecidableEq, Repr

/-- Scale factors of one channel: the long bands and the short bands of the three windows. -/
structure ScaleFactors where
  l : Vector (BitVec 5) 23
  s : Vector (Vector (BitVec 5) 13) 3
  deriving DecidableEq, Repr, Inhabited

/-- The main-data window `MD` (R333). `bytes` is the model's copy of `W[base .. base + len - 1]`. -/
structure MainData where
  bytes : List Byte
  base : BitVec 32
  len : BitVec 32
  pos : BitVec 32
  deriving DecidableEq, Repr

/-- The loop variables of `L3Decode` (R321) and `HuffDecode` (R361), given a home so that one selector can run alone:
granule, channel, the next line `i`, the bit address `end`, and whether the granule-channel is finished.
The model's own; no reset command writes it (log entries 22 and 41). -/
structure Sequencer where
  gr : Fin 2
  ch : Fin 2
  line : Nat
  lim : Nat
  done : Bool
  deriving DecidableEq, Repr

/-- All transient registers of R45. -/
structure Transient where
  sbs : Vector (Vector Sample 32) 2
  grid : Vector (Vector (Vector Sample 36) 32) 2
  l1 : Layer1Regs
  l2 : Layer2Regs
  si : SideInfo
  scf : Vector ScaleFactors 2
  /-- `SCF[1].ill_l`, `SCF[1].ill_s` -/
  ill : ScaleFactors
  is : Vector (Vector (BitVec 16) 576) 2
  nz : Vector (BitVec 10) 2
  xr : Vector (Vector Sample 576) 2
  hy : Vector (Vector (Vector Sample 18) 32) 2
  md : MainData
  deriving DecidableEq, Repr

/-! ## The environment -/

/-- What a sink holds (R36): the samples of its two channels since its last clear, in time order. -/
structure Sink where
  data : Vector (List Pcm) 2
  deriving DecidableEq, Repr, Inhabited

/-- The byte source (R22): the bytes it delivers from the last cursor reset on, and, once the host has positioned it
elsewhere, the bytes it will deliver after the next one. -/
structure Source where
  bytes : List Byte
  upcoming : Option (List Byte)
  deriving DecidableEq, Repr

/-- A request of the host. -/
inductive HostOp
  /-- a command word on the command port (R120) -/
  | command (w : CmdWord)
  /-- a pseudo-instruction of the host's notation (R161) -/
  | pseudo (p : Pseudo)
  /-- execute the frame at the bit cursor, the level 2 instruction there (R2) -/
  | frame
  /-- execute one level 3 selector on the data path as it stands -/
  | selector (x : Selector)
  /-- position the byte source so that it delivers these bytes (R523, R532) -/
  | present (bytes : List Byte)
  /-- the hardware reset input (R521) -/
  | resetInput
  deriving DecidableEq, Repr

/-- The command port: what the host has yet to request, and the result words delivered, the newest first. -/
structure CommandPort where
  ops : List HostOp
  results : List CmdWord
  deriving DecidableEq, Repr

/-- The equalizer port and its writer `EQW` (R20, R125): pending words, whether an `EQ_APPLY` stands between its two
steps (R103), result words delivered (newest first), and, boundary by boundary, how many atomic steps `EQW` takes. -/
structure EqPort where
  queue : List CmdWord
  halfApplied : Bool
  results : List CmdWord
  schedule : List Nat
  deriving DecidableEq, Repr

/-! ## The whole state -/

/-- The state of the machine. -/
structure State where
  br : BitReader
  hdr : Hdr
  frm : Frm
  ses : Ses
  /-- `EQ.val[0..31]` (R31) -/
  eq : Vector Sample 32
  sf : Vector SynthFilter 2
  /-- `OUT.sink` (R35) -/
  outSink : BitVec 8
  st : Status
  fb : FrameBuffer
  /-- `RES.buf[0 .. RES.len-1]`, oldest first (R42); `RES.len` is its length -/
  res : List Byte
  /-- `OV[ch][sb][i]` (R43) -/
  ov : Vector (Vector (Vector Sample 18) 32) 2
  made : Slots
  tr : Transient
  seq : Sequencer
  src : Source
  sinks : Vector Sink 256
  cp : CommandPort
  ep : EqPort
  cfg : Config
  /-- counts the uses of free values -/
  freeCtr : Nat
  deriving DecidableEq, Repr

/-! ## Reset (R47) -/

/-- The registers that R47 leaves unspecified, at the value of log entry 13: zero. -/
def Transient.zero : Transient where
  sbs := Vector.replicate 2 (Vector.replicate 32 Num.zero)
  grid := Vector.replicate 2 (Vector.replicate 32 (Vector.replicate 36 Num.zero))
  l1 :=
    { alloc := Vector.replicate 2 (Vector.replicate 32 0)
      scf := Vector.replicate 2 (Vector.replicate 32 0) }
  l2 :=
    { alloc := Vector.replicate 2 (Vector.replicate 32 0)
      scfsi := Vector.replicate 2 (Vector.replicate 32 0)
      scf := Vector.replicate 2 (Vector.replicate 32 (Vector.replicate 3 0)) }
  si :=
    { mainDataBegin := 0
      scfsi := Vector.replicate 2 (Vector.replicate 4 0)
      g := Vector.replicate 2 (Vector.replicate 2 default) }
  scf := Vector.replicate 2 default
  ill := default
  is := Vector.replicate 2 (Vector.replicate 576 0)
  nz := Vector.replicate 2 0
  xr := Vector.replicate 2 (Vector.replicate 576 Num.zero)
  hy := Vector.replicate 2 (Vector.replicate 32 (Vector.replicate 18 Num.zero))
  md := { bytes := [], base := 0, len := 0, pos := 0 }

/-- The parts of the state that a `RESET` command writes, at their values of R47. -/
structure ResetValues where
  br : BitReader := { pulled := 0, eod := false, pos := 0 }
  hdr : Hdr := { word := 0, start := 0, valid := false }
  frm : Frm :=
    { version := 0, layer := 0, bitrate := 0, rate := 0, channels := 0, len := 0, spf := 0, durUs := 0,
      sideBytes := 0, vbr := false }
  ses : Ses := { init := false, channels := 0, rate := 0, prevBitrate := 0, vbr := false }
  eq : Vector Sample 32 := Vector.replicate 32 Num.zero
  /-- coefficients 1.0, history 0.0 -/
  filter : SynthFilter := { eqf := Vector.replicate 32 Num.one, v := Vector.replicate 1024 Num.zero }
  outSink : BitVec 8 := 0
  st : Status := { code := 0, warn := 0, first := 0, value := 0, gerr := 0 }
  fb : FrameBuffer := { bytes := [], pos := 0 }
  res : List Byte := []
  ov : Vector (Vector (Vector Sample 18) 32) 2 := Vector.replicate 2 (Vector.replicate 32 (Vector.replicate 18 Num.zero))
  made : Slots := { l1 := false, l2 := false, l3 := false }

/-- The values of R47. -/
def resetValues : ResetValues := {}

/-- The machine at power-on (R47, R526): no request pending, an empty byte source, empty sinks. -/
def State.reset : State where
  br := resetValues.br
  hdr := resetValues.hdr
  frm := resetValues.frm
  ses := resetValues.ses
  eq := resetValues.eq
  sf := Vector.replicate 2 resetValues.filter
  outSink := resetValues.outSink
  st := resetValues.st
  fb := resetValues.fb
  res := resetValues.res
  ov := resetValues.ov
  made := resetValues.made
  tr := Transient.zero
  seq := { gr := 0, ch := 0, line := 0, lim := 0, done := false }
  src := { bytes := [], upcoming := none }
  sinks := Vector.replicate 256 { data := Vector.replicate 2 [] }
  cp := { ops := [], results := [] }
  ep := { queue := [], halfApplied := false, results := [], schedule := [] }
  cfg := Config.default
  freeCtr := 0

end Sys2Proof.Machine
end

