-- ==== Sys2Proof/Machine/Vec.lean ====
section
/-! DEFINITION. Small total operations on vectors and byte lists: a vector from a function, a read and an update
by a natural number, and a bit field of a byte string in the order of R82. -/

namespace Sys2Proof.Machine

/-- The vector whose element i is `f i`. -/
def tab {α : Type} (n : Nat) (f : Nat → α) : Vector α n :=
  ⟨((List.range n).map f).toArray, by simp⟩

/-- Element i; an index outside the vector reads the type's default (no rule reads there). -/
def rd {α : Type} [Inhabited α] {n : Nat} (v : Vector α n) (i : Nat) : α :=
  v.toList.getD i default

/-- The vector with element i replaced; an index outside the vector changes nothing. -/
def wr {α : Type} {n : Nat} (v : Vector α n) (i : Nat) (x : α) : Vector α n :=
  v.setIfInBounds i x

/-- The vector with element i replaced by `f` of it. -/
def upd {α : Type} [Inhabited α] {n : Nat} (v : Vector α n) (i : Nat) (f : α → α) : Vector α n :=
  wr v i (f (rd v i))

/-- Bit k of a byte string, the most significant bit of each byte first (R82). -/
def bitAt (bytes : List Byte) (k : Nat) : Bool :=
  (bytes.getD (k / 8) 0).getLsbD (7 - k % 8)

/-- The n bits from bit address p as an unsigned number, first bit most significant (R82, R181). -/
def bitsAt (bytes : List Byte) (p n : Nat) : Nat :=
  let tail := bytes.drop (p / 8)
  (List.range n).foldl (fun v k => 2 * v + (bitAt tail (p % 8 + k)).toNat) 0

end Sys2Proof.Machine
end

