-- ==== Sys2Proof/Machine/Ops.lean ====
section
/-! DEFINITION. The named operations over the state: one update per register group, result codes, the shared ends of a
command (this block's whole exception mechanism, R473), warnings aside (Flags.lean), loops, and the sink port. -/

namespace Sys2Proof.Machine

/-! ## One update per register group -/

def State.withBr (s : State) (x : BitReader) : State := { s with br := x }
def State.withHdr (s : State) (x : Hdr) : State := { s with hdr := x }
def State.withFrm (s : State) (x : Frm) : State := { s with frm := x }
def State.withSes (s : State) (x : Ses) : State := { s with ses := x }
def State.withEq (s : State) (x : Vector Sample 32) : State := { s with eq := x }
def State.withSf (s : State) (x : Vector SynthFilter 2) : State := { s with sf := x }
def State.withOutSink (s : State) (x : BitVec 8) : State := { s with outSink := x }
def State.withSt (s : State) (x : Status) : State := { s with st := x }
def State.withFb (s : State) (x : FrameBuffer) : State := { s with fb := x }
def State.withRes (s : State) (x : List Byte) : State := { s with res := x }
def State.withOv (s : State) (x : Vector (Vector (Vector Sample 18) 32) 2) : State := { s with ov := x }
def State.withMade (s : State) (x : Slots) : State := { s with made := x }
def State.withTr (s : State) (x : Transient) : State := { s with tr := x }
def State.withSeq (s : State) (x : Sequencer) : State := { s with seq := x }
def State.withSrc (s : State) (x : Source) : State := { s with src := x }
def State.withSinks (s : State) (x : Vector Sink 256) : State := { s with sinks := x }
def State.withCp (s : State) (x : CommandPort) : State := { s with cp := x }
def State.withEp (s : State) (x : EqPort) : State := { s with ep := x }
def State.withFreeCtr (s : State) (x : Nat) : State := { s with freeCtr := x }

/-- The bit cursor moved (R24). -/
def State.withPos (s : State) (p : Nat) : State := s.withBr { s.br with pos := BitVec.ofNat 64 p }

/-! ## Result codes (R471) -/

/-- The result codes, in the order of their numbers 0 to 10. -/
inductive Code
  | ok
  | streamExhausted
  | invalidSync
  | reservedValue
  | freeFormatUnsupported
  | unsupportedLayer
  | huffmanTableError
  | reservoirUnderrun
  | bandOutOfRange
  | sessionMismatch
  | illegalCommand
  deriving DecidableEq, Repr

def Code.toByte : Code → BitVec 8
  | .ok => 0
  | .streamExhausted => 1
  | .invalidSync => 2
  | .reservedValue => 3
  | .freeFormatUnsupported => 4
  | .unsupportedLayer => 5
  | .huffmanTableError => 6
  | .reservoirUnderrun => 7
  | .bandOutOfRange => 8
  | .sessionMismatch => 9
  | .illegalCommand => 10

/-! ## Commands (R15, R120, R473) -/

/-- The body of a command: `throw` is `raise`, and the writes made before it stay (R473). -/
abbrev Act := EStateM Code State

/-- A result word (R124). -/
def resultWord (code warn : BitVec 8) (value : BitVec 32) : CmdWord :=
  (code ++ warn ++ 0#16 ++ value : BitVec (8 + 8 + 16 + 32))

/-- The three result registers are latched (R37, R124). -/
def latchResult (code warn : BitVec 8) (value : BitVec 32) (s : State) : State :=
  s.withSt { s.st with code := code, warn := warn, value := value }

/-- The end of a command: its code, its first warning and its value are latched and the result word is delivered (R37,
R124, R473). -/
def endCommand (code : Code) (value : BitVec 32) (s : State) : State :=
  (latchResult code.toByte s.st.first value s).withCp
    { s.cp with results := resultWord code.toByte s.st.first value :: s.cp.results }

/-- The start of a command: `ST.warn` starts at 0 in every command (R486). -/
def startCommand (s : State) : State := s.withSt { s.st with warn := 0, first := 0 }

/-- Run a command to its result; the value is 0 on every failure (R124, R473). -/
def runCommand (body : Act (BitVec 32)) (s : State) : State :=
  match body (startCommand s) with
  | .ok v t => endCommand .ok v t
  | .error e t => endCommand e 0 t

/-- A cursor that would pass 2^64 - 1: the command is refused before it moves (R24, R479). -/
def cursorCheck (target : Nat) : Act Unit :=
  if target < 2 ^ 64 then pure () else throw .illegalCommand

/-! ## Loops (R16) -/

/-- `for i in 0..n-1` over a command body. -/
def forEach (n : Nat) (f : Nat → Act Unit) : Act Unit := (List.range n).forM f

/-- `for i in 0..n-1` over something that cannot fail. -/
def loop {σ : Type} (n : Nat) (f : Nat → σ → σ) (s : σ) : σ := (List.range n).foldl (fun t i => f i t) s

/-- `sum over k = 0..n-1 in ascending k`, started at +0.0 (R250; log entry 4). -/
def sum (num : NumSystem) (n : Nat) (f : Nat → Sample) : Sample :=
  (List.range n).foldl (fun acc k => Num.add num acc (f k)) Num.zero

/-! ## The sink port (R95 to R98) -/

/-- Change the bound sink; the null sink 0 discards everything. -/
def onSink (f : Sink → Sink) (s : State) : State :=
  if s.outSink = 0 then s else s.withSinks (upd s.sinks s.outSink.toNat f)

/-- `SinkClear()` (R97). -/
def sinkClear (s : State) : State := onSink (fun _ => { data := Vector.replicate 2 [] }) s

/-- `MemWrite(SINK, ch, 16, x)` for each x in time order (R96). -/
def sinkAppend (ch : Nat) (xs : List Pcm) (s : State) : State :=
  onSink (fun k => { data := upd k.data ch (· ++ xs) }) s

/-- `currentSize` of a sink (R36): the bytes of its samples, two for each. -/
def Sink.currentSize (k : Sink) : Nat := 2 * ((rd k.data 0).length + (rd k.data 1).length)

/-- The host's read of a sink's size (R95, R98). It is no command and changes nothing. -/
def State.sinkSize (s : State) (sink : Nat) : Nat := (rd s.sinks sink).currentSize

end Sys2Proof.Machine
end

