-- ==== Sys2Proof/Machine/Operands.lean ====
section
/-! DEFINITION. Every form in which an operand reaches an operation: bits of the stream at the cursor (R84, R181), bits
of the frame buffer and of the main-data window (R184), header fields (R26), and the block kind of a granule
(R323). -/

namespace Sys2Proof.Machine

/-! ## The byte source (R22, R84, R85) -/

/-- The bytes the source has yet to deliver or has delivered: once the sentinel was met the stream has ended at
`BR.pulled` (R23). -/
def State.stream (s : State) : List Byte :=
  if s.br.eod then s.src.bytes.take s.br.pulled.toNat else s.src.bytes

/-- How many bytes beyond need this pull fetches: free within `BR_PREFETCH` (R84; log entry 12). -/
def prefetch (s : State) : Nat := min s.cfg.brPrefetch (Config.freePrefetch s.freeCtr)

/-- The bytes of the whole bit address space, 2^64 bits (R22, R24). -/
def addressableBytes : Nat := 2 ^ 61

/-- Pull until `need` bytes are pulled or the sentinel is met (R84, R181). A prefetch stays inside the bit address
space. -/
def pullTo (need : Nat) (s : State) : State :=
  if s.br.eod ∨ need ≤ s.br.pulled.toNat then s
  else
    let want := min (need + prefetch s) (max need addressableBytes)
    let len := s.src.bytes.length
    let t := if s.cfg.brPrefetch = 0 then s else s.withFreeCtr (s.freeCtr + 1)
    t.withBr { s.br with pulled := BitVec.ofNat 64 (min want len), eod := decide (len < want) }

/-- The smallest byte count that covers the bit addresses below p. -/
def bytesFor (p : Nat) : Nat := (p + 7) / 8

/-- `ReadBits(n)` for n at least 1 (R181). -/
def readBits (n : Nat) : Act Nat := fun s =>
  let stop := s.br.pos.toNat + n
  let t := pullTo (bytesFor stop) s
  if t.br.pulled.toNat < bytesFor stop then .error .streamExhausted t
  else .ok (bitsAt s.src.bytes s.br.pos.toNat n) (t.withPos stop)

/-! ## The frame buffer (R40, R184) -/

/-- `FbBits(n)`. -/
def fbBits (n : Nat) : Act Nat := fun s =>
  let stop := s.fb.pos.toNat + n
  if 8 * s.fb.bytes.length < stop then .error .streamExhausted s
  else .ok (bitsAt s.fb.bytes s.fb.pos.toNat n) (s.withFb { s.fb with pos := BitVec.ofNat 32 stop })

/-- The bits of the frame body from `FB.pos` on are at least n, else `StreamExhausted` (R274, R299). -/
def fbBudget (n : Nat) : Act Unit := fun s =>
  if 8 * s.fb.bytes.length < s.fb.pos.toNat + n then .error .streamExhausted s else .ok () s

/-! ## The main-data window (R184, R333, R365) -/

/-- `Take(n, end)` at bit p of the window: the value and the next bit address. -/
def mdTake (md : MainData) (stop p n : Nat) : Option (Nat × Nat) :=
  if p + n ≤ stop ∧ p + n ≤ 8 * md.len.toNat then some (bitsAt md.bytes p n, p + n) else none

/-- `MdBits(n)` of the scale-factor reader, which the budget check keeps inside the window (R90, R335). -/
def mdBits (n : Nat) (s : State) : Nat × State :=
  (bitsAt s.tr.md.bytes s.tr.md.pos.toNat n,
    s.withTr { s.tr with md := { s.tr.md with pos := BitVec.ofNat 32 (s.tr.md.pos.toNat + n) } })

/-! ## Header fields (R26, R134, R135) -/

/-- The field registers of `HDR`, as fields of `HDR.word` (log entry 17). -/
def Hdr.fields (h : Hdr) : HeaderFields := splitHeader h.word

/-- `mode` = 0b01. -/
def State.jointStereo (s : State) : Bool := s.hdr.fields.mode == 1

/-- Bit 1 of `mode_ext`: MS stereo (Layer III, R135). -/
def State.msBit (s : State) : Bool := s.hdr.fields.modeExt.getLsbD 1

/-- Bit 0 of `mode_ext`: intensity stereo (Layer III, R135). -/
def State.isBit (s : State) : Bool := s.hdr.fields.modeExt.getLsbD 0

/-- The number of channels of the frame being decoded. -/
def State.nch (s : State) : Nat := s.frm.channels.toNat

/-- The number of granules of a Layer III frame (R321). -/
def State.ngr (s : State) : Nat := if s.frm.version = 1 then 2 else 1

/-! ## Granule fields (R142, R323) -/

/-- The granule record of (gr, ch). -/
def State.granule (s : State) (gr ch : Nat) : Granule := rd (rd s.tr.si.g gr) ch

/-- The block kinds. -/
inductive BlockKind
  | normal
  | start
  | short
  | mixed
  | stop
  | reserved
  deriving DecidableEq, Repr

/-- The kind named by the three fields (R323). -/
def blockKind (g : Granule) : BlockKind :=
  if g.windowSwitching = 0 then .normal
  else if g.blockType = 0 then .reserved
  else if g.blockType = 1 then .start
  else if g.blockType = 2 then (if g.mixedBlock = 0 then .short else .mixed)
  else .stop

/-- The `block_type` of a kind, 0 for a long block with the normal window and for the reserved kind (log entry 29). -/
def BlockKind.blockType : BlockKind → Nat
  | .normal => 0
  | .start => 1
  | .short => 2
  | .mixed => 2
  | .stop => 3
  | .reserved => 0

end Sys2Proof.Machine
end

