-- ==== Sys2Proof/Machine/BitReader.lean ====
section
/-! DEFINITION. The bit reader's commands: `READBITS` (R181) and `SYNC` (R186). -/

namespace Sys2Proof.Machine

/-! ## READBITS (R181) -/

/-- `READBITS n`: an n outside 1..32 is an illegal command word (R126). -/
def readbitsBody (n : Nat) : Act (BitVec 32) := do
  if 1 ≤ n ∧ n ≤ 32 then
    cursorCheck ((← get).br.pos.toNat + n)
    return BitVec.ofNat 32 (← readBits n)
  else throw .illegalCommand

def execReadbits (n : BitVec 8) (s : State) : Host.Outcome State Fault Refusal :=
  .next (runCommand (readbitsBody n.toNat) s)

/-! ## SYNC (R186) -/

/-- `M`: the bits of the second byte that belong to the pattern. -/
def syncMask : SyncBits → Byte
  | .eleven => 0xE0
  | .twelve => 0xF0

/-- The index, counted from p, of the first byte at which a sync pattern starts. -/
def syncScan (m : Byte) : List Byte → Nat → Option Nat
  | b0 :: b1 :: rest, p =>
    if b0 = 0xFF ∧ b1 &&& m = m then some p else syncScan m (b1 :: rest) (p + 1)
  | _, _ => none

/-- Where `SYNC` starts to look: the cursor rounded up to a byte index. -/
def syncStart (s : State) : Nat := bytesFor s.br.pos.toNat

/-- The byte index of the next sync pattern at or after the rounded cursor. -/
def syncFind (s : State) : Option Nat :=
  syncScan (syncMask s.cfg.syncBits) (s.stream.drop (syncStart s)) (syncStart s)

/-- `SYNC`. A pattern at byte p needs bytes p and p + 1; without one everything is pulled. -/
def syncBody : Act (BitVec 32) := do
  let s ← get
  cursorCheck (8 * syncStart s)
  match syncFind s with
  | some p =>
    cursorCheck (8 * p)
    set ((pullTo (p + 2) s).withPos (8 * p))
    return 0
  | none =>
    cursorCheck (8 * s.stream.length)
    let t := pullTo (max (syncStart s + 2) (s.src.bytes.length + 1)) s
    set (t.withPos (8 * t.br.pulled.toNat))
    throw .streamExhausted

def execSync (s : State) : Host.Outcome State Fault Refusal :=
  .next (runCommand syncBody s)

end Sys2Proof.Machine
end

