-- ==== Sys2Proof/Machine/Equalizer.lean ====
section
/-! DEFINITION. The equalizer commands (R232, R236) and the equalizer writer `EQW`, which performs commands of the
equalizer port at the boundaries of R102 and R103. -/

namespace Sys2Proof.Machine

/-! ## EQ_SETBAND (R232) -/

/-- `clamp(v, -1.0, 1.0)` (R11). -/
def clampUnit (v : Sample) : Sample :=
  if !Num.le Num.minusOne v then Num.minusOne
  else if !Num.le v Num.one then Num.one
  else v

/-- The value that the operand of an `EQ_SETBAND` stands for in `NUM` (R123). -/
def bandValue (s : State) (w : BitVec 32) : Sample := Num.ofBinary32 s.cfg.num w

/-- A band's value is clamped and stored, if it is a number. -/
def setBand (band : Nat) (v : Sample) : Act (BitVec 32) := do
  if Num.isNaN v then throw .bandOutOfRange
  modify fun s => s.withEq (wr s.eq band (clampUnit v))
  return 0

/-- `EQ_SETBAND i, v`; the operand is a binary32 pattern whatever `NUM` is (R123). -/
def eqSetbandBody (band : BitVec 8) (value : BitVec 32) : Act (BitVec 32) := do
  if 32 ≤ band.toNat then throw .bandOutOfRange
  setBand band.toNat (bandValue (← get) value)

def execEqSetband (band : BitVec 8) (value : BitVec 32) (s : State) : Host.Outcome State Fault Refusal :=
  .next (runCommand (eqSetbandBody band value) s)

/-! ## BandFactors and EQ_APPLY (R234, R236) -/

/-- `BandFactors()`: 1.0 + EQ.val[i]. -/
def bandFactors (s : State) : Vector Sample 32 := tab 32 fun i => Num.add s.cfg.num Num.one (rd s.eq i)

/-- One atomic step of `EQ_APPLY`: all 32 coefficients of one filter (R103). -/
def applyFactors (ch : Nat) (s : State) : State :=
  s.withSf (upd s.sf ch fun f => { f with eqf := bandFactors s })

/-! ## The equalizer port (R20, R103, R125) -/

/-- The end of a command of the equalizer port: it is latched and delivered like any other (R37, R124, R471, R479); it has
no warning and no value. DEDUCED: R495's "change only `EQ.val` and `SF[ch].eqf`" does not speak of `ST` (log entry 26). -/
def endEqCommand (code : Code) (s : State) : State :=
  (latchResult code.toByte 0 0 s).withEp { s.ep with results := resultWord code.toByte 0 0 :: s.ep.results }

/-- The end of an `EQ_SETBAND` on the equalizer port. -/
def eqwFinish (r : EStateM.Result Code State (BitVec 32)) : State :=
  match r with
  | .ok _ t => endEqCommand .ok t
  | .error e t => endEqCommand e t

/-- An equalizer command that has left the queue is performed; an `EQ_APPLY` up to its first step. Any opcode but the two
is illegal on this port (R125). -/
def eqwPerform (i : Instr) (s : State) : State :=
  match i with
  | .eqSetband band value => eqwFinish (eqSetbandBody band value s)
  | .eqApply => (applyFactors 0 s).withEp { s.ep with halfApplied := true }
  | _ => endEqCommand .illegalCommand s

/-- The next command word of the equalizer port leaves the queue and is performed. -/
def eqwAccept (w : CmdWord) (rest : List CmdWord) (s : State) : State :=
  eqwPerform (decodeCommand w) (s.withEp { s.ep with queue := rest })

/-- One atomic step of `EQW`: the second step of an `EQ_APPLY`, else the next command; nothing when there is none. -/
def eqwStep (s : State) : State :=
  if s.ep.halfApplied then
    let t := applyFactors 1 s
    endEqCommand .ok (t.withEp { t.ep with halfApplied := false })
  else
    match s.ep.queue with
    | [] => s
    | w :: rest => eqwAccept w rest s

/-- `k` steps of `EQW`. -/
def eqwSteps : Nat → State → State
  | 0, s => s
  | k + 1, s => eqwSteps k (eqwStep s)

/-- A boundary at which `EQW` may act: it takes the number of steps that its schedule holds for it (log entry 11). -/
def eqBoundary (s : State) : State :=
  match s.ep.schedule with
  | [] => s
  | k :: rest => eqwSteps k (s.withEp { s.ep with schedule := rest })

/-- `EQ_APPLY` on the command port; `EQW` may act between its two steps (R103). -/
def eqApplyBody : Act (BitVec 32) := do
  modify (applyFactors 0)
  modify eqBoundary
  modify (applyFactors 1)
  return 0

def execEqApply (s : State) : Host.Outcome State Fault Refusal :=
  .next (runCommand eqApplyBody s)

end Sys2Proof.Machine
end

