-- ==== Sys2Proof/Machine/Flags.lean ====
section
/-! DEFINITION. The status flags the block computes (R39): the warning of the running command, the variable-bitrate
flag, and the layer-decoder slots. `BR.eod` is set by `pullTo`, `HDR.valid` and `SES.init` by their commands. -/

namespace Sys2Proof.Machine

/-- `warn E` (R486): the running command's first warning goes to `ST.warn` and stays, `ST.gerr` counts and saturates. -/
def warn (e : Code) (s : State) : State :=
  s.withSt
    { s.st with
      warn := if s.st.first = 0 then e.toByte else s.st.warn
      first := if s.st.first = 0 then e.toByte else s.st.first
      gerr := if s.st.gerr = BitVec.allOnes 32 then s.st.gerr else s.st.gerr + 1 }

/-- `SES.vbr` after a header of this bitrate was accepted (R217). -/
def vbrAfter (ses : Ses) (bitrate : BitVec 32) : Bool :=
  ses.vbr || (ses.prevBitrate != 0 && ses.prevBitrate != bitrate)

/-- `LD.made[layer]` (R44). -/
def Slots.get (m : Slots) (layer : Nat) : Bool :=
  if layer = 1 then m.l1 else if layer = 2 then m.l2 else if layer = 3 then m.l3 else false

/-- `LD.made[layer] <- 1`. -/
def Slots.set (m : Slots) (layer : Nat) : Slots :=
  { l1 := m.l1 || layer == 1, l2 := m.l2 || layer == 2, l3 := m.l3 || layer == 3 }

/-- `LD.made[3] << 2 | LD.made[2] << 1 | LD.made[1]` (R456). -/
def Slots.bits (m : Slots) : BitVec 32 :=
  BitVec.ofNat 32 (4 * m.l3.toNat + 2 * m.l2.toNat + m.l1.toNat)

end Sys2Proof.Machine
end

