-- ==== Sys2Proof/Machine/Header.lean ====
section
/-! DEFINITION. `PARSE_HEADER` (R201) and the level 2 rows that name a header word which is refused (R136). -/

namespace Sys2Proof.Machine

/-! ## What a header determines (R204 to R214) -/

/-- `FRM.version`; 0 for the reserved code (R204). -/
def headerVersion (h : HeaderFields) : Nat :=
  if h.versionId = 3 then 1 else if h.versionId = 2 then 2 else if h.versionId = 0 then 3 else 0

/-- `FRM.layer`; 0 for the reserved code (R205). -/
def headerLayer (h : HeaderFields) : Nat :=
  if h.layerCode = 3 then 1 else if h.layerCode = 2 then 2 else if h.layerCode = 1 then 3 else 0

/-- The bitrate column of a version and layer (R206). -/
def bitrateColumn (version layer : Nat) : List Nat :=
  if version = 1 then (if layer = 1 then kbpsV1L1 else if layer = 2 then kbpsV1L2 else kbpsV1L3)
  else (if layer = 1 then kbpsLsfL1 else kbpsLsfL23)

/-- `FRM.bitrate` in bits per second (R206). -/
def headerBitrate (h : HeaderFields) : Nat :=
  1000 * (bitrateColumn (headerVersion h) (headerLayer h)).getD h.bitrateIndex.toNat 0

/-- `FRM.rate` in Hz (R207). -/
def headerRate (h : HeaderFields) : Nat := (ratesHz (headerVersion h)).getD h.rateIndex.toNat 0

/-- `FRM.channels` (R134, R208). -/
def headerChannels (h : HeaderFields) : Nat := if h.mode = 3 then 1 else 2

/-- `FRM.spf` (R209). -/
def headerSpf (h : HeaderFields) : Nat :=
  if headerLayer h = 1 then 384
  else if headerLayer h = 2 then 1152
  else if headerVersion h = 1 then 1152 else 576

/-- `FRM.side_bytes` (R211). -/
def headerSideBytes (h : HeaderFields) : Nat :=
  if headerLayer h = 3 then
    if headerVersion h = 1 then (if headerChannels h = 1 then 17 else 32)
    else (if headerChannels h = 1 then 9 else 17)
  else 0

/-- The constant K of R212. -/
def lengthConstant (halveL2 : Bool) (h : HeaderFields) : Nat :=
  if headerVersion h ≠ 1 ∧ (headerLayer h = 3 ∨ halveL2) then 72 else 144

/-- `FRM.len` (R210, R212). -/
def headerLen (halveL2 : Bool) (h : HeaderFields) : Nat :=
  if headerLayer h = 1 then (12 * headerBitrate h / headerRate h + h.padding.toNat) * 4
  else lengthConstant halveL2 h * headerBitrate h / headerRate h + h.padding.toNat

/-- `FRM.dur_us` (R214). -/
def headerDurUs (h : HeaderFields) : Nat := headerSpf h * 1000000 / headerRate h

/-- `FRM` after a header was accepted, with the given variable-bitrate flag. -/
def headerFrm (halveL2 : Bool) (h : HeaderFields) (vbr : Bool) : Frm where
  version := BitVec.ofNat 2 (headerVersion h)
  layer := BitVec.ofNat 2 (headerLayer h)
  bitrate := BitVec.ofNat 32 (headerBitrate h)
  rate := BitVec.ofNat 32 (headerRate h)
  channels := BitVec.ofNat 2 (headerChannels h)
  len := BitVec.ofNat 16 (headerLen halveL2 h)
  spf := BitVec.ofNat 16 (headerSpf h)
  durUs := BitVec.ofNat 32 (headerDurUs h)
  sideBytes := BitVec.ofNat 8 (headerSideBytes h)
  vbr := vbr

/-! ## PARSE_HEADER (R201) -/

/-- `HDR.* <- 0; FRM.* <- 0`. -/
def clearHeader (s : State) : State := (s.withHdr resetValues.hdr).withFrm resetValues.frm

/-- A header word read at bit address `start` is accepted: `HDR`, `FRM`, `SES.prev_bitrate` and `SES.vbr` (R201, R217). -/
def acceptHeader (h : HeaderFields) (start : BitVec 64) (s : State) : State :=
  let bitrate := BitVec.ofNat 32 (headerBitrate h)
  let vbr := vbrAfter s.ses bitrate
  ((s.withHdr { word := joinHeader h, start := start, valid := true }).withFrm
    (headerFrm s.cfg.lsfHalveL2 h vbr)).withSes { s.ses with prevBitrate := bitrate, vbr := vbr }

/-- `fail(E)`: the cursor is left 8 bits after the start of the refused header (R201, R202). -/
def refuseHeader {α : Type} (start : BitVec 64) (e : Code) : Act α := fun s =>
  .error e ((clearHeader s).withPos (start.toNat + 8))

/-- The tests of R201 in their order, then the writes. -/
def judgeHeader (h : HeaderFields) (start : BitVec 64) : Act Unit := do
  match headerClass (← get).cfg.syncBits h with
  | .noSync => refuseHeader start .invalidSync
  | .rsvVersion | .rsvLayer | .rsvBitrate | .rsvRate => refuseHeader start .reservedValue
  | .freeFormat => refuseHeader start .freeFormatUnsupported
  | .layer1 | .layer2 | .layer3 => modify (acceptHeader h start)

/-- Read the 32 bits of a header word; without them `HDR` and `FRM` are cleared and the cursor stays (R201, R474). -/
def fetchHeader : Act HeaderWord := fun s =>
  match readBits 32 s with
  | .ok w t => .ok (BitVec.ofNat 32 w) t
  | .error e t => .error e (clearHeader t)

def parseHeaderBody : Act (BitVec 32) := do
  let start := (← get).br.pos
  cursorCheck (start.toNat + 32)
  modify fun s => s.withHdr { s.hdr with valid := false }
  let w ← fetchHeader
  judgeHeader (splitHeader w) start
  return w

def execParseHeader (s : State) : Host.Outcome State Fault Refusal :=
  .next (runCommand parseHeaderBody s)

/-! ## The refused header rows (R136)

Level 2: the engine has fetched the header word `h`, so the cursor is 32 bits after its start (R201). The row ends the
frame as `PARSE_HEADER` ends that header. -/

/-- The start of the header word that was just fetched. -/
def fetchedStart (s : State) : BitVec 64 := s.br.pos - 32

def refuseFetched (e : Code) : Act (BitVec 32) := do
  refuseHeader (fetchedStart (← get)) e

def execHdrNoSync (_ : HeaderFields) (s : State) : Host.Outcome State Fault Refusal :=
  .next (runCommand (refuseFetched .invalidSync) s)

def execHdrRsvVersion (_ : HeaderFields) (s : State) : Host.Outcome State Fault Refusal :=
  .next (runCommand (refuseFetched .reservedValue) s)

def execHdrRsvLayer (_ : HeaderFields) (s : State) : Host.Outcome State Fault Refusal :=
  .next (runCommand (refuseFetched .reservedValue) s)

def execHdrRsvBitrate (_ : HeaderFields) (s : State) : Host.Outcome State Fault Refusal :=
  .next (runCommand (refuseFetched .reservedValue) s)

def execHdrRsvRate (_ : HeaderFields) (s : State) : Host.Outcome State Fault Refusal :=
  .next (runCommand (refuseFetched .reservedValue) s)

def execHdrFreeFormat (_ : HeaderFields) (s : State) : Host.Outcome State Fault Refusal :=
  .next (runCommand (refuseFetched .freeFormatUnsupported) s)

end Sys2Proof.Machine
end

