-- ==== Sys2Proof/Machine/Elementary.lean ====
section
/-! DEFINITION. The operations `sqrt`, `sin`, `cos`, `tan`, `pow` and the constant `PI` of R12 in the number system `NUM`:
each is one operation, computed with 256 fraction bits and rounded once (log entry 2). -/

namespace Sys2Proof.Machine.Num

/-! ## Square root -/

/-- The largest r below `acc + 2^b` with r * r at most k, found bit by bit. -/
def rootBits (k : Nat) : Nat → Nat → Nat
  | 0, acc => acc
  | b + 1, acc =>
    let c := acc + 2 ^ b
    rootBits k b (if c * c ≤ k then c else acc)

/-- The integer square root, rounded down. -/
def isqrt (k : Nat) : Nat := rootBits k (Nat.log2 k / 2 + 1) 0

/-- The root of m * 2^(2q), rounded once: 128 more bits of it and a sticky bit. -/
def packRoot (n : NumSystem) (m : Nat) (q : Int) : Sample :=
  let w := m * 2 ^ 256
  let r := isqrt w
  pack n false (2 * r + (if r * r = w then 0 else 1)) (q - 129)

def sqrt (n : NumSystem) (x : Sample) : Sample :=
  match x with
  | .nan => .nan
  | .inf s => if s then .nan else .inf false
  | .fin s m e =>
    if m = 0 then x
    else if s then .nan
    else if e % 2 = 0 then packRoot n m (e / 2) else packRoot n (2 * m) ((e - 1) / 2)

/-! ## Fixed point: an integer stands for its 2^256th part -/

/-- The first 258 bits of PI and the first 256 of ln 2. -/
def piFix : Nat := 0x3243F6A8885A308D313198A2E03707344A4093822299F31D0082EFA98EC4E6C89
def ln2Fix : Nat := 0xB17217F7D1CF79ABC9E3B39803F2F6AF40F343267298B62D8A0D175B8BAAFA2B

/-- m * 2^e. -/
def toFix (m : Nat) (e : Int) : Nat :=
  if 0 ≤ e + 256 then m * 2 ^ (e + 256).toNat else m / 2 ^ (-(e + 256)).toNat

/-- The constant `PI`. -/
def pi (n : NumSystem) : Sample := pack n false piFix (-256)

/-! ## Sine, cosine, tangent -/

/-- 1 - q/((2j+a)(2j+a+1)) * (1 - q/((2j+a+2)(2j+a+3)) * (…)), so many factors from j on. -/
def alternating (a : Nat) (q : Int) : (terms j : Nat) → Int
  | 0, _ => 2 ^ 256
  | terms + 1, j => 2 ^ 256 - q * alternating a q terms (j + 1) / (2 ^ 256 * ((2 * j + a) * (2 * j + a + 1)) : Nat)

/-- No sine and no cosine leaves [-1, 1]. -/
def clampFix (c : Int) : Int := max (-2 ^ 256) (min c (2 ^ 256))

/-- The cosine and the sine of an angle below 2 PI. -/
def cosFix (r : Nat) : Int := clampFix (alternating 1 ((r : Int) * r / 2 ^ 256) 52 0)
def sinFix (r : Nat) : Int := clampFix ((r : Int) * alternating 2 ((r : Int) * r / 2 ^ 256) 52 0 / 2 ^ 256)

/-- The angle m * 2^e without its full turns. -/
def angle (m : Nat) (e : Int) : Nat := toFix m e % (2 * piFix)

def cos (n : NumSystem) (x : Sample) : Sample :=
  match x with
  | .fin _ m e => let c := cosFix (angle m e); pack n (decide (c < 0)) c.natAbs (-256)
  | .inf _ | .nan => .nan

def sin (n : NumSystem) (x : Sample) : Sample :=
  match x with
  | .fin s m e =>
    if m = 0 then x
    else let c := sinFix (angle m e); pack n (s != decide (c < 0)) c.natAbs (-256)
  | .inf _ | .nan => .nan

def tan (n : NumSystem) (x : Sample) : Sample :=
  match x with
  | .fin s m e =>
    if m = 0 then x
    else
      let p := sinFix (angle m e)
      let c := cosFix (angle m e)
      packRatio n (s != (decide (p < 0) != decide (c < 0))) p.natAbs c.natAbs 0
  | .inf _ | .nan => .nan

/-! ## Powers -/

/-- 1/(2j+1) + q * (1/(2j+3) + q * (…)). -/
def atanhSeries (q : Nat) : (terms j : Nat) → Nat
  | 0, _ => 0
  | terms + 1, j => 2 ^ 256 / (2 * j + 1) + q * atanhSeries q terms (j + 1) / 2 ^ 256

/-- ln (m * 2^e) for a positive m: m = 2^k * f with f in [1, 2), and ln f = 2 atanh ((f - 1) / (f + 1)). -/
def lnFix (m : Nat) (e : Int) : Int :=
  let k := Nat.log2 m
  let z := (m - 2 ^ k) * 2 ^ 256 / (m + 2 ^ k)
  (k + e) * ln2Fix + (2 * (z * atanhSeries (z * z / 2 ^ 256) 85 0 / 2 ^ 256) : Nat)

/-- 1 + r/j * (1 + r/(j+1) * (…)). -/
def expSeries (r : Nat) : (terms j : Nat) → Nat
  | 0, _ => 2 ^ 256
  | terms + 1, j => 2 ^ 256 + r * expSeries r terms (j + 1) / (2 ^ 256 * j)

/-- e^t, rounded once. -/
def packExp (n : NumSystem) (t : Int) : Sample :=
  pack n false (expSeries (t % ln2Fix).toNat 60 1) (t / ln2Fix - 256)

/-- `pow(a, b)` of finite values: an exact power for an integer b, else e^(b * ln a). The formulas of the spec raise
no infinity and no negative value to a fraction; those give no number. -/
def pow (n : NumSystem) (a b : Sample) : Sample :=
  match a, b with
  | .fin s m e, .fin t k f =>
    if 0 ≤ f then
      let p := k * 2 ^ f.toNat
      let sign := s && p % 2 == 1
      if t then (if m = 0 then .inf sign else packRatio n sign 1 (m ^ p) (-(e * p))) else pack n sign (m ^ p) (e * p)
    else if m = 0 then (if t then .inf false else zero)
    else if s then .nan
    else packExp n (signedInt t k * lnFix m e / (2 ^ (-f).toNat : Nat))
  | _, _ => .nan

end Sys2Proof.Machine.Num
end

