-- ==== Sys2Proof/Machine/Rom.lean ====
section
/-! DEFINITION. The coefficient ROMs: cosines, windows, roots of two, alias-reduction and intensity coefficients. Each is
its formula of the spec, evaluated in `NUM` operation by operation in the order written (R12). -/

namespace Sys2Proof.Machine

/-! ## Synthesis filter (R251) -/

/-- `N[i][k]` = cos((16 + i) * (2*k + 1) * PI / 64). -/
def matrixN (num : NumSystem) (i k : Nat) : Sample :=
  Num.cos num (Num.div num (Num.mul num (Num.ofNat num ((16 + i) * (2 * k + 1))) (Num.pi num)) (Num.ofNat num 64))

/-! ## Layers I and II (R278) -/

/-- `SCALE[i]` = 2.0 * pow(2.0, -i / 3.0). -/
def scale (num : NumSystem) (i : Nat) : Sample :=
  Num.mul num Num.two (Num.pow num Num.two (Num.div num (Num.dyadic num (-i) 0) (Num.ofNat num 3)))

/-! ## Requantisation (R392) -/

/-- pow(v, 4.0 / 3.0). -/
def pow43 (num : NumSystem) (v : Nat) : Sample :=
  Num.pow num (Num.ofNat num v) (Num.div num (Num.ofNat num 4) (Num.ofNat num 3))

/-- pow(2.0, e) for e = e4 / 4. -/
def pow2Quarter (num : NumSystem) (e4 : Int) : Sample := Num.pow num Num.two (Num.dyadic num e4 (-2))

/-! ## Alias reduction (R419) -/

/-- `-CI[0..7]` in units of 0.0001. -/
def ciTable : List Nat := [6000, 5350, 3300, 1850, 950, 410, 142, 37]

def coefCI (num : NumSystem) (i : Nat) : Sample := Num.packRatio num true (ciTable.getD i 0) 10000 0
def aliasNorm (num : NumSystem) (i : Nat) : Sample :=
  Num.sqrt num (Num.add num Num.one (Num.mul num (coefCI num i) (coefCI num i)))
def coefCS (num : NumSystem) (i : Nat) : Sample := Num.div num Num.one (aliasNorm num i)
def coefCA (num : NumSystem) (i : Nat) : Sample := Num.div num (coefCI num i) (aliasNorm num i)

/-! ## Intensity stereo (R406, R408) -/

/-- tan(p * PI / 12.0). -/
def intensityRatio (num : NumSystem) (p : Nat) : Sample :=
  Num.tan num (Num.div num (Num.mul num (Num.ofNat num p) (Num.pi num)) (Num.ofNat num 12))

/-- `i0` for the least significant bit of `scalefac_compress`. -/
def intensityBase (num : NumSystem) (b : Nat) : Sample :=
  if b = 0 then pow2Quarter num (-1) else pow2Quarter num (-2)

/-! ## Transform windows (R424) -/

/-- sin(PI/d * (i + 0.5)). -/
def sineWindow (num : NumSystem) (d i : Nat) : Sample :=
  Num.sin num
    (Num.mul num (Num.div num (Num.pi num) (Num.ofNat num d)) (Num.add num (Num.ofNat num i) Num.half))

/-- `WIN[bt][i]` for a long transform; a `bt` that is neither 1 nor 3 takes the normal window. -/
def winLong (num : NumSystem) (bt i : Nat) : Sample :=
  if bt = 1 then
    if i < 18 then sineWindow num 36 i
    else if i < 24 then Num.one
    else if i < 30 then sineWindow num 12 (i - 18)
    else Num.zero
  else if bt = 3 then
    if i < 6 then Num.zero
    else if i < 12 then sineWindow num 12 (i - 6)
    else if i < 18 then Num.one
    else sineWindow num 36 i
  else sineWindow num 36 i

/-- `WINS[i]`. -/
def winShort (num : NumSystem) (i : Nat) : Sample := sineWindow num 12 i

/-! ## Inverse transforms (R423, R425) -/

/-- cos(PI / d * a * b). -/
def transformCos (num : NumSystem) (d a b : Nat) : Sample :=
  Num.cos num
    (Num.mul num (Num.mul num (Num.div num (Num.pi num) (Num.ofNat num d)) (Num.ofNat num a)) (Num.ofNat num b))

/-- cos(PI / 72.0 * (2*i + 19) * (2*k + 1)). -/
def imdctLong (num : NumSystem) (i k : Nat) : Sample := transformCos num 72 (2 * i + 19) (2 * k + 1)

/-- cos(PI / 24.0 * (2*i + 7) * (2*k + 1)). -/
def imdctShort (num : NumSystem) (i k : Nat) : Sample := transformCos num 24 (2 * i + 7) (2 * k + 1)

/-! ## Tables for running the model

A compiled or interpreted run takes the coefficients of the transforms from tables that are computed once from the
formulas; the formulas stay the definitions. -/

/-- n rows of m values of a formula. -/
def coefTable (f : Nat → Nat → Sample) (n m : Nat) : Vector (Vector Sample m) n := tab n fun i => tab m (f i)

/-- The tables of one format. -/
structure RomTables where
  matrix : Vector (Vector Sample 32) 64
  long : Vector (Vector Sample 18) 36
  short : Vector (Vector Sample 6) 12
  window : Vector (Vector Sample 36) 4

def romTables (num : NumSystem) : RomTables where
  matrix := coefTable (matrixN num) 64 32
  long := coefTable (imdctLong num) 36 18
  short := coefTable (imdctShort num) 12 6
  window := coefTable (winLong num) 4 36

def rom32 : RomTables := romTables .binary32
def rom64 : RomTables := romTables .binary64
def rom128 : RomTables := romTables .binary128

def romOf : NumSystem → RomTables
  | .binary32 => rom32
  | .binary64 => rom64
  | .binary128 => rom128

/-- A coefficient from its table, or from its formula outside the table. -/
def fromTable {n m : Nat} (t : Vector (Vector Sample m) n) (f : Nat → Nat → Sample) (i k : Nat) : Sample :=
  if h : i < n ∧ k < m then t[i][k] else f i k

theorem fromTable_coefTable (f : Nat → Nat → Sample) (n m i k : Nat) : fromTable (coefTable f n m) f i k = f i k := by
  unfold fromTable
  split
  · simp [coefTable, tab]
  · rfl

theorem romOf_eq (num : NumSystem) : romOf num = romTables num := by cases num <;> rfl

def matrixNRun (num : NumSystem) (i k : Nat) : Sample := fromTable (romOf num).matrix (matrixN num) i k
def imdctLongRun (num : NumSystem) (i k : Nat) : Sample := fromTable (romOf num).long (imdctLong num) i k
def imdctShortRun (num : NumSystem) (i k : Nat) : Sample := fromTable (romOf num).short (imdctShort num) i k
def winLongRun (num : NumSystem) (bt i : Nat) : Sample := fromTable (romOf num).window (winLong num) bt i

@[csimp] theorem matrixN_eq_run : @matrixN = @matrixNRun := by
  funext num i k
  simp [matrixNRun, romOf_eq, romTables, fromTable_coefTable]

@[csimp] theorem imdctLong_eq_run : @imdctLong = @imdctLongRun := by
  funext num i k
  simp [imdctLongRun, romOf_eq, romTables, fromTable_coefTable]

@[csimp] theorem imdctShort_eq_run : @imdctShort = @imdctShortRun := by
  funext num i k
  simp [imdctShortRun, romOf_eq, romTables, fromTable_coefTable]

@[csimp] theorem winLong_eq_run : @winLong = @winLongRun := by
  funext num bt i
  simp [winLongRun, romOf_eq, romTables, fromTable_coefTable]

end Sys2Proof.Machine
end

