-- ==== Sys2Proof/Machine/Synthesis.lean ====
section
/-! DEFINITION. The synthesis call (R250) and the conversion of its output. -/

namespace Sys2Proof.Machine

/-- The history after a call: aged by one vector of 64, then the 64 new values from the scaled inputs (R250 steps 2
and 3, R251). -/
def nextHistory (num : NumSystem) (v : Vector Sample 1024) (scaled : Vector Sample 32) : Vector Sample 1024 :=
  tab 1024 fun i =>
    if i < 64 then sum num 32 fun k => Num.mul num (matrixN num i k) (rd scaled k) else rd v (i - 64)

/-- `U[n]`: from the vectors of age 2i and 2i + 1 alternately (R250 step 4, R253). -/
def unfoldHistory (v : Vector Sample 1024) (n : Nat) : Sample :=
  let i := n / 64
  let r := n % 64
  rd v (if r < 32 then 128 * i + r else 128 * i + 64 + r)

/-- Output sample j before scaling: 16 windowed values (R250 steps 5 and 6). -/
def windowSum (num : NumSystem) (window : Vector Sample 512) (v : Vector Sample 1024) (j : Nat) : Sample :=
  sum num 16 fun i => Num.mul num (unfoldHistory v (j + 32 * i)) (rd window (j + 32 * i))

/-- The 32 samples a call emits from its new history (R250 step 6, R254, R255). -/
def emit (c : Config) (v : Vector Sample 1024) : List Pcm :=
  (List.range 32).map fun j => Num.toPcm c.num c.pcmRound (Num.mul c.num (windowSum c.num c.synthWindow v j) c.outScale)

/-- The inputs scaled lane by lane with the snapshot of the coefficients (R250 step 1, R258, R260). -/
def scaleInputs (num : NumSystem) (sbs g : Vector Sample 32) : Vector Sample 32 :=
  tab 32 fun k => Num.mul num (rd sbs k) (rd g k)

/-- The call itself, from the snapshot on (R250). -/
def synthCall (ch : Nat) (s : State) : State :=
  let f := rd s.sf ch
  let v := nextHistory s.cfg.num f.v (scaleInputs s.cfg.num (rd s.tr.sbs ch) f.eqf)
  sinkAppend ch (emit s.cfg v) (s.withSf (wr s.sf ch { f with v := v }))

/-- `Synth(ch)`: `EQW` may act at the boundary before it (R102). -/
def synth (ch : Nat) (s : State) : State := synthCall ch (eqBoundary s)

/-- `SBS[ch] <- x`, then `Synth(ch)`. -/
def feedSynth (ch : Nat) (x : Vector Sample 32) (s : State) : State :=
  synth ch (s.withTr { s.tr with sbs := wr s.tr.sbs ch x })

end Sys2Proof.Machine
end

