-- ==== Sys2Proof/Machine/Layer1.lean ====
section
/-! DEFINITION. Layer I (R271 to R279). -/

namespace Sys2Proof.Machine

/-! ## The joint-stereo bound (R135) -/

/-- The first jointly coded subband: `4 + 4 * mode_ext` for joint stereo, else 32. -/
def State.jointBound (s : State) : Nat :=
  if s.jointStereo then 4 + 4 * s.hdr.fields.modeExt.toNat else 32

/-- The check word, present when `protection` is 0, is read and discarded (R137). -/
def skipCheckWord : Act Unit := do
  if (← get).hdr.fields.protection = 0 then
    let _ ← fbBits 16
    return ()

/-! ## Allocation and scale factors (R272, R273) -/

def setAlloc1 (ch sb : Nat) (c : BitVec 4) (s : State) : State :=
  s.withTr { s.tr with l1 := { s.tr.l1 with alloc := upd s.tr.l1.alloc ch fun r => wr r sb c } }

def setScf1 (ch sb : Nat) (c : BitVec 6) (s : State) : State :=
  s.withTr { s.tr with l1 := { s.tr.l1 with scf := upd s.tr.l1.scf ch fun r => wr r sb c } }

def State.alloc1 (s : State) (ch sb : Nat) : BitVec 4 := rd (rd s.tr.l1.alloc ch) sb
def State.scf1 (s : State) (ch sb : Nat) : BitVec 6 := rd (rd s.tr.l1.scf ch) sb

/-- One allocation code; 15 is forbidden (R272). -/
def readAlloc1 : Act (BitVec 4) := do
  let c ← fbBits 4
  if c = 15 then throw .reservedValue
  return BitVec.ofNat 4 c

/-- One scale-factor index; 63 is forbidden (R273, R298). -/
def readScfIndex : Act (BitVec 6) := do
  let c ← fbBits 6
  if c = 63 then throw .reservedValue
  return BitVec.ofNat 6 c

/-- All allocation codes (R146 order 1 and 2, R272). -/
def readAllocs1 (nch bound : Nat) : Act Unit :=
  forEach 32 fun sb =>
    if sb < bound then
      forEach nch fun ch => do
        let c ← readAlloc1
        modify (setAlloc1 ch sb c)
    else do
      let c ← readAlloc1
      modify (setAlloc1 0 sb c)
      if nch = 2 then modify (setAlloc1 1 sb c)

/-- All scale factors (R146 order 3, R273). -/
def readScfs1 (nch : Nat) : Act Unit :=
  forEach 32 fun sb =>
    forEach nch fun ch => do
      if (← get).alloc1 ch sb ≠ 0 then
        let c ← readScfIndex
        modify (setScf1 ch sb c)

/-! ## The bit budget (R274) -/

/-- The bits of one sample of an allocation code: 0 when unallocated, else c + 1. -/
def sampleBits1 (c : BitVec 4) : Nat := if c = 0 then 0 else c.toNat + 1

/-- The number of sample bits of the frame. -/
def budget1 (nch bound : Nat) (s : State) : Nat :=
  12 * ((List.range 32).map fun sb =>
    if sb < bound then ((List.range nch).map fun ch => sampleBits1 (s.alloc1 ch sb)).sum
    else sampleBits1 (s.alloc1 0 sb)).sum

def checkBudget1 (nch bound : Nat) : Act Unit := fun s => fbBudget (budget1 nch bound s) s

/-! ## Samples (R275, R276) -/

/-- A dequantised value before its scale factor: `C * (frac + D)` with `frac = (r - 2^(n-1)) / 2^(n-1)`, where
C = 2^n / steps and D = 2^(-dExp) (R275, R303). -/
def dequant (num : NumSystem) (r n steps dExp : Nat) : Sample :=
  let frac := Num.dyadic num ((r : Int) - (2 ^ (n - 1) : Nat)) (1 - (n : Int))
  Num.mul num (Num.packRatio num false (2 ^ n) steps 0) (Num.add num frac (Num.dyadic num 1 (-(dExp : Int))))

/-- Layer I: L = 2^nb - 1, D = 2^(1-nb). -/
def dequant1 (num : NumSystem) (r nb : Nat) : Sample := dequant num r nb (2 ^ nb - 1) (nb - 1)

/-- A sample: its dequantised value times its scale factor. -/
def sample1 (s : State) (r nb : Nat) (scf : BitVec 6) : Sample :=
  Num.mul s.cfg.num (dequant1 s.cfg.num r nb) (scale s.cfg.num scf.toNat)

def setGrid (ch sb i : Nat) (x : Sample) (s : State) : State :=
  s.withTr { s.tr with grid := upd s.tr.grid ch fun g => upd g sb fun r => wr r i x }

/-- The samples of subband sb in sample set i: one per channel below the bound, one shared code from it on. -/
def readSample1 (nch bound i sb : Nat) : Act Unit :=
  if sb < bound then
    forEach nch fun ch => do
      let c := (← get).alloc1 ch sb
      if c = 0 then modify (setGrid ch sb i Num.zero)
      else
        let r ← fbBits (sampleBits1 c)
        modify fun s => setGrid ch sb i (sample1 s r (sampleBits1 c) (s.scf1 ch sb)) s
  else do
    let c := (← get).alloc1 0 sb
    if c = 0 then modify (loop nch fun ch => setGrid ch sb i Num.zero)
    else
      let r ← fbBits (sampleBits1 c)
      modify (loop nch fun ch s =>
        setGrid ch sb i (sample1 s r (sampleBits1 c) (s.scf1 ch sb)) s)

def readSamples1 (nch bound : Nat) : Act Unit :=
  forEach 12 fun i => forEach 32 fun sb => readSample1 nch bound i sb

/-! ## The frame (R271, R277) -/

/-- The n sample sets of `GRID` go to the filters in order, channel 0 then channel 1 (R277, R305). -/
def feedGrid (n nch : Nat) (s : State) : State :=
  loop n (fun i => loop nch fun ch t =>
    feedSynth ch (tab 32 fun sb => rd (rd (rd t.tr.grid ch) sb) i) t) s

/-- Everything of `L1Decode` that can fail (R271). -/
def parse1 (nch bound : Nat) : Act Unit := do
  skipCheckWord
  readAllocs1 nch bound
  readScfs1 nch
  checkBudget1 nch bound
  readSamples1 nch bound

/-- `L1Decode` (R271). -/
def decode1 : Act Unit := do
  let s ← get
  parse1 s.nch s.jointBound
  modify (feedGrid 12 s.nch)

end Sys2Proof.Machine
end

