-- ==== Sys2Proof/Machine/Layer2.lean ====
section
/-! DEFINITION. Layer II (R291 to R306). -/

namespace Sys2Proof.Machine

/-! ## Tables (R292, R293, R295) -/

/-- The allocation table and `sblimit` of a frame (R292). -/
def allocTable (tables : AllocTables) (version rate bpc : Nat) : List AllocRow × Nat :=
  if version ≠ 1 then (tables.lsf, 30)
  else if (56 ≤ bpc ∧ bpc ≤ 80) ∨ (rate = 48000 ∧ 56 ≤ bpc) then (tables.a, 27)
  else if rate ≠ 48000 ∧ 96 ≤ bpc then (tables.b, 30)
  else if rate ≠ 32000 ∧ bpc ≤ 48 then (tables.c, 8)
  else (tables.d, 12)

/-- The table of the frame in `FRM`; `bpc` is the bitrate per channel in kbit/s. -/
def State.allocTable2 (s : State) : List AllocRow × Nat :=
  allocTable s.cfg.l2Alloc s.frm.version.toNat s.frm.rate.toNat (s.frm.bitrate.toNat / 1000 / s.nch)

/-- The row of a table that covers subband sb; beyond the rows of a supplied table, one of width 0 (log entry 42). -/
def allocRow : List AllocRow → Nat → AllocRow
  | [], _ => default
  | r :: rest, sb => if sb < r.count then r else allocRow rest (sb - r.count)

/-- The quantisation class of a non-zero allocation code (R293); a code or class that a supplied table does not have: log
entry 42. -/
def quantClass (cfg : Config) (t : List AllocRow) (sb : Nat) (c : BitVec 4) : QuantClass :=
  rd cfg.l2Quant ((allocRow t sb).classes.getD (c.toNat - 1) 0)

/-! ## Allocation, selection, scale factors (R296 to R298) -/

def setAlloc2 (ch sb : Nat) (c : BitVec 4) (s : State) : State :=
  s.withTr { s.tr with l2 := { s.tr.l2 with alloc := upd s.tr.l2.alloc ch fun r => wr r sb c } }

def setScfsi2 (ch sb : Nat) (c : BitVec 2) (s : State) : State :=
  s.withTr { s.tr with l2 := { s.tr.l2 with scfsi := upd s.tr.l2.scfsi ch fun r => wr r sb c } }

def setScf2 (ch sb : Nat) (a b c : BitVec 6) (s : State) : State :=
  s.withTr { s.tr with l2 := { s.tr.l2 with scf := upd s.tr.l2.scf ch fun r => wr r sb #v[a, b, c] } }

def State.alloc2 (s : State) (ch sb : Nat) : BitVec 4 := rd (rd s.tr.l2.alloc ch) sb
def State.scfsi2 (s : State) (ch sb : Nat) : BitVec 2 := rd (rd s.tr.l2.scfsi ch) sb
def State.scf2 (s : State) (ch sb p : Nat) : BitVec 6 := rd (rd (rd s.tr.l2.scf ch) sb) p

/-- All allocation codes; none from `sblimit` on (R147 order 1 and 2, R296). -/
def readAllocs2 (t : List AllocRow) (sblimit nch bound : Nat) : Act Unit :=
  forEach 32 fun sb =>
    if sb < bound then
      forEach nch fun ch => do
        let c ← fbBits (allocRow t sb).nbal
        modify (setAlloc2 ch sb (BitVec.ofNat 4 c))
    else if sb < sblimit then do
      let c ← fbBits (allocRow t sb).nbal
      modify (setAlloc2 0 sb (BitVec.ofNat 4 c))
      if nch = 2 then modify (setAlloc2 1 sb (BitVec.ofNat 4 c))
    else modify (loop nch fun ch => setAlloc2 ch sb 0)

/-- The scale-factor selection of the allocated subbands (R297). -/
def readScfsi2 (sblimit nch : Nat) : Act Unit :=
  forEach sblimit fun sb =>
    forEach nch fun ch => do
      if (← get).alloc2 ch sb ≠ 0 then
        let c ← fbBits 2
        modify (setScfsi2 ch sb (BitVec.ofNat 2 c))

/-- The scale factors of one subband by its selection (R298). -/
def readScf2 (ch sb : Nat) : Act Unit := do
  let p := (← get).scfsi2 ch sb
  let a ← readScfIndex
  if p = 0 then
    let b ← readScfIndex
    let c ← readScfIndex
    modify (setScf2 ch sb a b c)
  else if p = 1 then
    let b ← readScfIndex
    modify (setScf2 ch sb a a b)
  else if p = 2 then modify (setScf2 ch sb a a a)
  else
    let b ← readScfIndex
    modify (setScf2 ch sb a b b)

def readScfs2 (sblimit nch : Nat) : Act Unit :=
  forEach sblimit fun sb =>
    forEach nch fun ch => do
      if (← get).alloc2 ch sb ≠ 0 then readScf2 ch sb

/-! ## The bit budget (R299) -/

/-- `tb(q)`: the bits of one sample triple. -/
def tripleBits (q : QuantClass) : Nat :=
  match q.group with
  | some cw => cw
  | none => 3 * q.bits

/-- The bits of one triple of a subband: 0 when unallocated. -/
def allocBits2 (cfg : Config) (t : List AllocRow) (sb : Nat) (c : BitVec 4) : Nat :=
  if c = 0 then 0 else tripleBits (quantClass cfg t sb c)

def budget2 (t : List AllocRow) (sblimit nch bound : Nat) (s : State) : Nat :=
  12 * ((List.range sblimit).map fun sb =>
    if sb < bound then ((List.range nch).map fun ch => allocBits2 s.cfg t sb (s.alloc2 ch sb)).sum
    else allocBits2 s.cfg t sb (s.alloc2 0 sb)).sum

def checkBudget2 (t : List AllocRow) (sblimit nch bound : Nat) : Act Unit := fun s =>
  fbBudget (budget2 t sblimit nch bound s) s

/-! ## Samples (R301 to R304) -/

/-- One triple of values (R301, R302). -/
def readTriple (q : QuantClass) : Act (Nat × Nat × Nat) := do
  match q.group with
  | some cw =>
    let c ← fbBits cw
    return (c % q.steps, c / q.steps % q.steps, c / (q.steps * q.steps) % q.steps)
  | none =>
    let a ← fbBits q.bits
    let b ← fbBits q.bits
    let c ← fbBits q.bits
    return (a, b, c)

/-- Triple gr of one channel and subband goes to `GRID`, scaled with the factor of part gr / 4 (R303). -/
def setTriple (ch sb gr : Nat) (q : QuantClass) (v : Nat × Nat × Nat) (s : State) : State :=
  let num := s.cfg.num
  let f := scale num (s.scf2 ch sb (gr / 4)).toNat
  let x (r : Nat) : Sample := Num.mul num (dequant num r q.bits q.steps q.dExp) f
  setGrid ch sb (3 * gr + 2) (x v.2.2) (setGrid ch sb (3 * gr + 1) (x v.2.1) (setGrid ch sb (3 * gr) (x v.1) s))

def zeroTriple (ch sb gr : Nat) (s : State) : State :=
  loop 3 (fun t => setGrid ch sb (3 * gr + t) Num.zero) s

/-- The triple of subband sb in triple set gr (R304). -/
def readTriple2 (t : List AllocRow) (sblimit nch bound gr sb : Nat) : Act Unit :=
  if sb < bound then
    forEach nch fun ch => do
      let s ← get
      let c := s.alloc2 ch sb
      if c = 0 then modify (zeroTriple ch sb gr)
      else
        let v ← readTriple (quantClass s.cfg t sb c)
        modify (setTriple ch sb gr (quantClass s.cfg t sb c) v)
  else do
    let s ← get
    let c := s.alloc2 0 sb
    if sb < sblimit ∧ c ≠ 0 then
      let v ← readTriple (quantClass s.cfg t sb c)
      modify (loop nch fun ch => setTriple ch sb gr (quantClass s.cfg t sb c) v)
    else modify (loop nch fun ch => zeroTriple ch sb gr)

def readTriples2 (t : List AllocRow) (sblimit nch bound : Nat) : Act Unit :=
  forEach 12 fun gr => forEach 32 fun sb => readTriple2 t sblimit nch bound gr sb

/-! ## The frame (R291, R305) -/

/-- Everything of `L2Decode` that can fail (R291). -/
def parse2 (t : List AllocRow) (sblimit nch bound : Nat) : Act Unit := do
  skipCheckWord
  readAllocs2 t sblimit nch bound
  readScfsi2 sblimit nch
  readScfs2 sblimit nch
  checkBudget2 t sblimit nch bound
  readTriples2 t sblimit nch bound

/-- `L2Decode` (R291); the bound of R295. -/
def decode2 : Act Unit := do
  let s ← get
  let (t, sblimit) := s.allocTable2
  parse2 t sblimit s.nch (min s.jointBound sblimit)
  modify (feedGrid 36 s.nch)

end Sys2Proof.Machine
end

