-- ==== Sys2Proof/Machine/SideInfo.lean ====
section
/-! DEFINITION. Layer III, first part: side information (R322), the reservoir (R331 to R335) and the scale factors (R336
to R345). -/

namespace Sys2Proof.Machine

/-! ## Side information (R140 to R143, R322) -/

/-- The implied `region0_count` when `window_switching_flag` = 1 (R143). -/
def impliedRegion0 (blockType mixed : Nat) : Nat := if blockType = 2 ∧ mixed = 0 then 8 else 7

/-- The fields between the flag and `preflag` when the flag is 1 (R142 order 6a to 6d). -/
def readSwitched (g : Granule) : Act Granule := do
  let bt ← fbBits 2
  let m ← fbBits 1
  let t0 ← fbBits 5
  let t1 ← fbBits 5
  let s0 ← fbBits 3
  let s1 ← fbBits 3
  let s2 ← fbBits 3
  let r0 := impliedRegion0 bt m
  return { g with
    blockType := BitVec.ofNat 2 bt
    mixedBlock := BitVec.ofNat 1 m
    tableSelect := #v[BitVec.ofNat 5 t0, BitVec.ofNat 5 t1, 0]
    subblockGain := #v[BitVec.ofNat 3 s0, BitVec.ofNat 3 s1, BitVec.ofNat 3 s2]
    region0Count := BitVec.ofNat 4 r0
    region1Count := BitVec.ofNat 4 (20 - r0) }

/-- The same when the flag is 0 (R142 order 6e to 6g). -/
def readUnswitched (g : Granule) : Act Granule := do
  let t0 ← fbBits 5
  let t1 ← fbBits 5
  let t2 ← fbBits 5
  let r0 ← fbBits 4
  let r1 ← fbBits 3
  return { g with
    blockType := 0
    mixedBlock := 0
    tableSelect := #v[BitVec.ofNat 5 t0, BitVec.ofNat 5 t1, BitVec.ofNat 5 t2]
    subblockGain := #v[0, 0, 0]
    region0Count := BitVec.ofNat 4 r0
    region1Count := BitVec.ofNat 4 r1 }

/-- The fields that the window-switching flag selects (R142 order 6). -/
def readWindow (ws : Nat) (g : Granule) : Act Granule := if ws = 1 then readSwitched g else readUnswitched g

/-- `preflag`, transmitted in MPEG-1 only (R142 order 7). -/
def readPreflag (v1 : Bool) : Act Nat := if v1 then fbBits 1 else pure 0

/-- One granule record (R142); `v1` says the version is MPEG-1. -/
def readGranule (v1 : Bool) : Act Granule := do
  let len ← fbBits 12
  let big ← fbBits 9
  let gain ← fbBits 8
  let comp ← fbBits (if v1 then 4 else 9)
  let ws ← fbBits 1
  let g ← readWindow ws
    { (default : Granule) with
      part23Length := BitVec.ofNat 12 len
      bigValues := BitVec.ofNat 9 big
      globalGain := BitVec.ofNat 8 gain
      scalefacCompress := BitVec.ofNat 9 comp
      windowSwitching := BitVec.ofNat 1 ws }
  let pre ← readPreflag v1
  let scale ← fbBits 1
  let c1 ← fbBits 1
  return { g with
    preflag := BitVec.ofNat 1 pre
    scalefacScale := BitVec.ofNat 1 scale
    count1TableSelect := BitVec.ofNat 1 c1 }

def setSideInfo (f : SideInfo → SideInfo) (s : State) : State := s.withTr { s.tr with si := f s.tr.si }

def setGranule (gr ch : Nat) (g : Granule) (s : State) : State :=
  setSideInfo (fun si => { si with g := upd si.g gr fun row => wr row ch g }) s

def setScfsi (ch b : Nat) (v : BitVec 1) (s : State) : State :=
  setSideInfo (fun si => { si with scfsi := upd si.scfsi ch fun row => wr row b v }) s

/-- The number of private bits (R140, R141). -/
def privateBits (v1 : Bool) (nch : Nat) : Nat :=
  if v1 then (if nch = 1 then 5 else 3) else (if nch = 1 then 1 else 2)

/-- The `scfsi` flags, in MPEG-1 only (R140 order 3). -/
def readScfsi (v1 : Bool) (nch : Nat) : Act Unit :=
  if v1 then
    forEach nch fun ch => forEach 4 fun b => do
      let v ← fbBits 1
      modify (setScfsi ch b (BitVec.ofNat 1 v))
  else pure ()

/-- The granule records, granule by granule, channel by channel (R140 order 4, R141 order 3). -/
def readGranules (v1 : Bool) (ngr nch : Nat) : Act Unit :=
  forEach ngr fun gr => forEach nch fun ch => do
    let g ← readGranule v1
    modify (setGranule gr ch g)

/-- The start of the side information: `main_data_begin`, and no `scfsi` yet. -/
def startSideInfo (mainDataBegin : Nat) (s : State) : State :=
  setSideInfo (fun si =>
    { si with
      mainDataBegin := BitVec.ofNat 9 mainDataBegin
      scfsi := Vector.replicate 2 (Vector.replicate 4 0) }) s

/-- `ParseSideInfo` (R322). -/
def parseSideInfo : Act Unit := do
  let s ← get
  let v1 := decide (s.frm.version = 1)
  let mainDataBegin ← fbBits (if v1 then 9 else 8)
  modify (startSideInfo mainDataBegin)
  let _ ← fbBits (privateBits v1 s.nch)
  readScfsi v1 s.nch
  readGranules v1 s.ngr s.nch

/-! ## The reservoir (R331 to R334) -/

/-- `RES_KEEP` (R8). -/
def resKeep : Nat := 511

/-- `md_off`: where the frame's main-data area begins in `FB` (R322). -/
def State.mdOff (s : State) : Nat :=
  (if s.hdr.fields.protection = 0 then 2 else 0) + s.frm.sideBytes.toNat

/-- The last n elements of a list. -/
def lastN {α : Type} (n : Nat) (l : List α) : List α := l.drop (l.length - n)

/-- `W`: the reservoir followed by the frame's own main-data area. -/
def State.workingReservoir (s : State) : List Byte := s.res ++ s.fb.bytes.drop s.mdOff

/-- The frame refers to bytes that the block does not hold (R332). -/
def State.underRun (s : State) : Bool := decide (s.res.length < s.tr.si.mainDataBegin.toNat)

/-- The main-data window of the frame (R333). -/
def State.window (s : State) : MainData :=
  let base := s.res.length - s.tr.si.mainDataBegin.toNat
  let bytes := s.workingReservoir.drop base
  { bytes := bytes, base := BitVec.ofNat 32 base, len := BitVec.ofNat 32 bytes.length, pos := s.tr.md.pos }

/-- `ReservoirStep` (R331), with its warning (R332); whether the frame under-runs is `State.underRun` before it. -/
def reservoirStep (s : State) : State :=
  let t := if s.underRun then warn .reservoirUnderrun s else s.withTr { s.tr with md := s.window }
  t.withRes (lastN resKeep s.workingReservoir)

/-! ## Scale-factor lengths (R336, R340, R344) -/

/-- The 0, 1, 2 of the block kinds in `NR_OF_SFB` (R340). -/
def BlockKind.bandColumn : BlockKind → Nat
  | .short => 1
  | .mixed => 2
  | .normal | .start | .stop | .reserved => 0

/-- `slen1`, `slen2` (R336). -/
def slens (g : Granule) : Nat × Nat :=
  (slen1Table.getD g.scalefacCompress.toNat 0, slen2Table.getD g.scalefacCompress.toNat 0)

/-- The right channel of an intensity-stereo frame, `ir` of R340. -/
def State.intensityRight (s : State) (ch : Nat) : Bool := ch == 1 && s.jointStereo && s.isBit

/-- The lengths, the table row and `preflag` that `scalefac_compress` gives in LSF (R340). -/
def lsfLengths (ir : Bool) (c : Nat) : List Nat × Nat × Nat :=
  if ¬ ir then
    if c < 400 then ([c / 16 / 5, c / 16 % 5, c % 16 / 4, c % 4], 0, 0)
    else if c < 500 then ([(c - 400) / 4 / 5, (c - 400) / 4 % 5, (c - 400) % 4, 0], 1, 0)
    else ([(c - 500) / 3, (c - 500) % 3, 0, 0], 2, 1)
  else
    let h := c / 2
    if h < 180 then ([h / 36, h % 36 / 6, h % 36 % 6, 0], 3, 0)
    else if h < 244 then ([(h - 180) % 64 / 16, (h - 180) % 16 / 4, (h - 180) % 4, 0], 4, 0)
    else ([(h - 244) / 3, (h - 244) % 3, 0, 0], 5, 0)

/-- The length of each of the flat list's entries in LSF: `slen[p]` repeated `nr[p]` times (R341). -/
def lsfEntryLengths (ir : Bool) (c : Nat) (k : BlockKind) : List Nat :=
  let (slen, tbl, _) := lsfLengths ir c
  let nr := ((nrOfSfb.getD tbl []).getD k.bandColumn [])
  (List.range 4).flatMap fun p => List.replicate (nr.getD p 0) (slen.getD p 0)

/-- The group of long bands that sfb belongs to: 0..5, 6..10, 11..15, 16..20 (R337). -/
def scfsiGroup (sfb : Nat) : Nat := if sfb < 6 then 0 else if sfb < 11 then 1 else if sfb < 16 then 2 else 3

/-- The long bands that an MPEG-1 granule-channel transmits, with their lengths (R337). -/
def longBands (slen : Nat × Nat) (gr : Nat) (scfsi : Vector (BitVec 1) 4) : List (Nat × Nat) :=
  ((List.range 21).filter fun sfb => gr = 0 ∨ rd scfsi (scfsiGroup sfb) = 0).map fun sfb =>
    (sfb, if sfb < 11 then slen.1 else slen.2)

/-- `Part2Length(gr, ch)` (R344). -/
def State.part2Length (s : State) (gr ch : Nat) : Nat :=
  let g := s.granule gr ch
  if s.frm.version = 1 then
    let slen := slens g
    match blockKind g with
    | .short => 18 * slen.1 + 18 * slen.2
    | .mixed => 17 * slen.1 + 18 * slen.2
    | .normal | .start | .stop | .reserved => ((longBands slen gr (rd s.tr.si.scfsi ch)).map Prod.snd).sum
  else (lsfEntryLengths (s.intensityRight ch) g.scalefacCompress.toNat (blockKind g)).sum

/-! ## Reading the scale factors (R337 to R341, R345) -/

def setFactors (ch : Nat) (f : ScaleFactors → ScaleFactors) (s : State) : State :=
  s.withTr { s.tr with scf := upd s.tr.scf ch f }

def setLong (ch sfb v : Nat) (s : State) : State :=
  setFactors ch (fun f => { f with l := wr f.l sfb (BitVec.ofNat 5 v) }) s

def setShort (ch w sfb v : Nat) (s : State) : State :=
  setFactors ch (fun f => { f with s := upd f.s w fun r => wr r sfb (BitVec.ofNat 5 v) }) s

/-- Read one value of a length and store it. -/
def readInto (len : Nat) (store : Nat → State → State) (s : State) : State :=
  let (v, t) := mdBits len s
  store v t

/-- Short bands lo..hi-1, the three windows of each (R338). -/
def readShortBands (ch lo hi len : Nat) (s : State) : State :=
  loop (hi - lo) (fun i => loop 3 fun w => readInto len (setShort ch w (lo + i))) s

/-- The values defined before the scale factors of (gr, ch) are read (R345). -/
def clearFactors (gr ch : Nat) (s : State) : State :=
  if gr = 0 then
    let t := setFactors ch (fun _ => default) s
    if ch = 1 then t.withTr { t.tr with ill := default } else t
  else setFactors ch (fun f => { f with s := (default : ScaleFactors).s }) s

/-- MPEG-1 (R337, R338). -/
def readFactorsV1 (gr ch : Nat) (s : State) : State :=
  let g := s.granule gr ch
  let slen := slens g
  match blockKind g with
  | .short => readShortBands ch 6 12 slen.2 (readShortBands ch 0 6 slen.1 s)
  | .mixed =>
    let t := loop 8 (fun sfb => readInto slen.1 (setLong ch sfb)) s
    readShortBands ch 6 12 slen.2 (readShortBands ch 3 6 slen.1 t)
  | .normal | .start | .stop | .reserved =>
    let t := (longBands slen gr (rd s.tr.si.scfsi ch)).foldl (fun t b => readInto b.2 (setLong ch b.1) t) s
    setLong ch 22 0 (setLong ch 21 0 t)

/-- Where entry k of the flat list goes (R341): a long band or (window, short band). -/
def lsfPlace (k : BlockKind) (i : Nat) : Sum Nat (Nat × Nat) :=
  match k with
  | .short => .inr (i % 3, i / 3)
  | .mixed => if i < 6 then .inl i else .inr ((i - 6) % 3, 3 + (i - 6) / 3)
  | .normal | .start | .stop | .reserved => .inl i

/-- `ILL[k]` of channel 1 stored at the same place (R341). -/
def setIllegal (place : Sum Nat (Nat × Nat)) (v : Nat) (s : State) : State :=
  let i := s.tr.ill
  s.withTr { s.tr with
    ill :=
      match place with
      | .inl sfb => { i with l := wr i.l sfb (BitVec.ofNat 5 v) }
      | .inr (w, sfb) => { i with s := upd i.s w fun r => wr r sfb (BitVec.ofNat 5 v) } }

/-- Store entry k: the scale factor, and for channel 1 the illegal position of its length. -/
def storeLsf (k : BlockKind) (ch i len v : Nat) (s : State) : State :=
  let place := lsfPlace k i
  let t :=
    match place with
    | .inl sfb => setLong ch sfb v s
    | .inr (w, sfb) => setShort ch w sfb v s
  if ch = 1 then setIllegal place (2 ^ len - 1) t else t

/-- MPEG-2 and MPEG-2.5 (R340, R341). -/
def readFactorsLsf (gr ch : Nat) (s : State) : State :=
  let g := s.granule gr ch
  let ir := s.intensityRight ch
  let c := g.scalefacCompress.toNat
  let k := blockKind g
  let lens := lsfEntryLengths ir c k
  let t := setGranule gr ch { g with preflag := BitVec.ofNat 1 (lsfLengths ir c).2.2 } s
  loop lens.length (fun i => readInto (lens.getD i 0) (storeLsf k ch i (lens.getD i 0))) t

/-- `ReadScaleFactors(gr, ch)`. -/
def readScaleFactors (gr ch : Nat) (s : State) : State :=
  let t := clearFactors gr ch s
  if t.frm.version = 1 then readFactorsV1 gr ch t else readFactorsLsf gr ch t

end Sys2Proof.Machine
end

