-- ==== Sys2Proof/Machine/Huffman.lean ====
section
/-! DEFINITION. Layer III, second part: Huffman decoding (R361 to R376), and the level 3 instructions that name a
codebook. A granule-channel is decoded one code word at a time at the registers `seq` (granule, channel, next line,
`end`), so that a `table_select` or `count1table_select` is an instruction of its own (log entry 22). -/

namespace Sys2Proof.Machine

/-! ## Code words (R148, R365, R366, R369) -/

/-- The longest `hlen` of a codebook. -/
def longest {α : Type} (book : List (CodeWord α)) : Nat := book.foldl (fun m e => max m e.hlen) 0

/-- One bit at a time, at most `fuel` of them: the word w of length n so far is followed by the bits at p (R366). -/
def lookupFrom {α : Type} (book : List (CodeWord α)) (md : MainData) (stop : Nat) :
    (fuel n w p : Nat) → Option (α × Nat)
  | 0, _, _, _ => none
  | fuel + 1, n, w, p =>
    match mdTake md stop p 1 with
    | none => none
    | some (b, q) =>
      match book.find? fun e => e.hlen == n + 1 && e.hcod == 2 * w + b with
      | some e => some (e.value, q)
      | none => lookupFrom book md stop fuel (n + 1) (2 * w + b) q

/-- `Lookup(book, end)` at bit p: the value and the next bit address. -/
def lookup {α : Type} (book : List (CodeWord α)) (md : MainData) (stop p : Nat) : Option (α × Nat) :=
  lookupFrom book md stop (longest book) 0 0 p

/-- The linbits and the sign of one value of a pair (R365). -/
def signedValue (linbits : Nat) (md : MainData) (stop : Nat) (x p : Nat) : Option (Int × Nat) := do
  let (x, p) ←
    if 0 < linbits ∧ x = 15 then do
      let (v, p) ← mdTake md stop p linbits
      some (x + v, p)
    else some (x, p)
  if x = 0 then some (0, p)
  else
    let (b, p) ← mdTake md stop p 1
    some (if b = 1 then -(x : Int) else (x : Int), p)

/-- `PairWord(t, end)` at bit p (R365); `none` is a failure. -/
def pairWord (c : Config) (t : Nat) (md : MainData) (stop p : Nat) : Option ((Int × Int) × Nat) :=
  if t = 0 then some ((0, 0), p)
  else do
    let (b, linbits) ← tableSelectRow t
    let ((x, y), p) ← lookup (pairBook c b) md stop p
    let (x, p) ← signedValue linbits md stop x p
    let (y, p) ← signedValue linbits md stop y p
    some ((x, y), p)

/-- The sign of one of v, w, x, y (R369). -/
def quadSign (md : MainData) (stop : Nat) (bit : Bool) (p : Nat) : Option (Int × Nat) :=
  if bit then do
    let (b, p) ← mdTake md stop p 1
    some (if b = 1 then -1 else 1, p)
  else some (0, p)

/-- `QuadWord(sel, end)` at bit p (R369). -/
def quadWord (c : Config) (sel : BitVec 1) (md : MainData) (stop p : Nat) : Option ((Int × Int × Int × Int) × Nat) := do
  let (q, p) ← lookup (quadBook c sel) md stop p
  let (v, p) ← quadSign md stop (q.testBit 3) p
  let (w, p) ← quadSign md stop (q.testBit 2) p
  let (x, p) ← quadSign md stop (q.testBit 1) p
  let (y, p) ← quadSign md stop (q.testBit 0) p
  some ((v, w, x, y), p)

/-! ## The lines (R361, R372) -/

/-- The channel of the sequencer. -/
def State.seqCh (s : State) : Nat := s.seq.ch.val

def setLine (ch k : Nat) (v : Int) (s : State) : State :=
  s.withTr { s.tr with is := upd s.tr.is ch fun r => wr r k (BitVec.ofInt 16 v) }

def setMdPos (p : Nat) (s : State) : State :=
  s.withTr { s.tr with md := { s.tr.md with pos := BitVec.ofNat 32 p } }

/-- 1 plus the index of the last non-zero line, or 0 (R372). -/
def lastNonZero (v : Vector (BitVec 16) 576) : Nat :=
  (List.range 576).foldl (fun m k => if rd v k = 0 then m else k + 1) 0

/-- The end of a granule-channel: the lines from the next one on are 0, `NZ`, and the cursor at `end` (R361, R374). -/
def finishLines (s : State) : State :=
  let ch := s.seqCh
  let lines := tab 576 fun k => if k < s.seq.line then rd (rd s.tr.is ch) k else 0
  (setMdPos s.seq.lim
    (s.withTr { s.tr with
      is := wr s.tr.is ch lines
      nz := wr s.tr.nz ch (BitVec.ofNat 10 (lastNonZero lines)) })).withSeq { s.seq with done := true }

/-- Store lines from the next one on, and move past them and past the bits read. -/
def storeLines (vs : List Int) (p : Nat) (s : State) : State :=
  let t := vs.zipIdx.foldl (fun t v => setLine s.seqCh (s.seq.line + v.2) v.1 t) s
  (setMdPos p t).withSeq { s.seq with line := s.seq.line + vs.length }

/-- A silent granule-channel: scale factors, lines and `NZ` all 0 (R321, R345). -/
def silence (ch : Nat) (s : State) : State :=
  let t := setFactors ch (fun _ => default) s
  t.withTr { t.tr with
    ill := if ch = 1 then default else t.tr.ill
    is := wr t.tr.is ch (Vector.replicate 576 0)
    nz := wr t.tr.nz ch 0 }

/-! ## One code word (R361) -/

/-- One pair of the big-value region; a failure ends the granule-channel with a warning (R375). Nothing happens once
it is finished or when no pair fits. -/
def pairStep (t : Nat) (s : State) : State :=
  if s.seq.done ∨ 574 < s.seq.line then s
  else
    match pairWord s.cfg t s.tr.md s.seq.lim s.tr.md.pos.toNat with
    | some ((x, y), p) => storeLines [x, y] p s
    | none => finishLines (warn .huffmanTableError s)

/-- One quadruple of the count1 region; without bits or lines, or with a word that crosses `end`, the region is over
and that is no error (R361, R375). -/
def quadStep (sel : BitVec 1) (s : State) : State :=
  if s.seq.done then s
  else if s.tr.md.pos.toNat < s.seq.lim ∧ s.seq.line ≤ 572 then
    match quadWord s.cfg sel s.tr.md s.seq.lim s.tr.md.pos.toNat with
    | some ((v, w, x, y), p) => storeLines [v, w, x, y] p s
    | none => finishLines s
  else finishLines s

/-- A reserved codebook or block kind (tests 2 and 4 of R376): the granule-channel is silent, with a warning, and
finished. -/
def reservedSelector (s : State) : State :=
  (silence s.seqCh (warn .huffmanTableError s)).withSeq { s.seq with done := true }

/-! ## The whole granule-channel (R361, R363, R376) -/

/-- `RegionBounds(g)` (R363). -/
def regionBounds (c : Config) (rate : Nat) (g : Granule) : Nat × Nat :=
  let lines := 2 * g.bigValues.toNat
  if g.blockType = 2 then (min (3 * (sfbShort c rate).getD 3 0) lines, min 576 lines)
  else
    let r0 := g.region0Count.toNat
    let r1 := g.region1Count.toNat
    (min ((sfbLong c rate).getD (r0 + 1) 0) lines, min ((sfbLong c rate).getD (min (r0 + r1 + 2) 22) 0) lines)

/-- The `table_select` of line i. -/
def tableAt (g : Granule) (r : Nat × Nat) (i : Nat) : Nat :=
  (if i < r.1 then rd g.tableSelect 0 else if i < r.2 then rd g.tableSelect 1 else rd g.tableSelect 2).toNat

/-- The sequencer at the start of a granule-channel. -/
def startLines (gr ch stop : Nat) (s : State) : State :=
  s.withSeq { gr := Fin.ofNat 2 gr, ch := Fin.ofNat 2 ch, line := 0, lim := stop, done := false }

/-- The quadruples, at most `fuel` of them, until the region is over. -/
def quadRegion (sel : BitVec 1) : Nat → State → State
  | 0, s => finishLines s
  | fuel + 1, s => if s.seq.done then s else quadRegion sel fuel (quadStep sel s)

/-- `HuffDecode(gr, ch, end)` (R361). -/
def huffDecode (gr ch stop : Nat) (s : State) : State :=
  let g := s.granule gr ch
  let r := regionBounds s.cfg s.frm.rate.toNat g
  let t := loop g.bigValues.toNat (fun i => pairStep (tableAt g r (2 * i))) (startLines gr ch stop s)
  quadRegion g.count1TableSelect 145 t

/-- A region that holds a pair selects a reserved codebook (test 4 of R376). DESIGN CHOICE (log entry 40): a region holds a
pair when it has a line by the clipped bounds of R363. Only with an odd boundary, or with boundaries that do not rise,
can such a region be one that no pair takes its codebook from; no printed table has either. -/
def reservedSelected (g : Granule) (r : Nat × Nat) : Bool :=
  let bad (t : BitVec 5) : Bool := t == 4 || t == 14
  (decide (0 < r.1) && bad (rd g.tableSelect 0)) ||
  (decide (r.1 < r.2) && bad (rd g.tableSelect 1)) ||
  (decide (r.2 < 2 * g.bigValues.toNat) && bad (rd g.tableSelect 2))

/-- `GranuleChecks(gr, ch, P)`: the warning of the first test that fails (R335, R376). -/
def granuleChecks (gr ch p : Nat) (s : State) : Option Code :=
  let g := s.granule gr ch
  let rate := s.frm.rate.toNat
  if 8 * s.tr.md.len.toNat < p + g.part23Length.toNat then some .reservoirUnderrun
  else if blockKind g = .reserved then some .huffmanTableError
  else if 288 < g.bigValues.toNat then some .huffmanTableError
  else if reservedSelected g (regionBounds s.cfg rate g) then some .huffmanTableError
  else if blockKind g = .mixed ∧ 3 * (sfbShort s.cfg rate).getD 3 0 ≠ 36 then some .huffmanTableError
  else if g.part23Length.toNat < s.part2Length gr ch then some .huffmanTableError
  else none

/-- One granule-channel of `L3Decode`: its scale factors and lines, or silence (R321). -/
def decodeLines (under : Bool) (gr ch p : Nat) (s : State) : State :=
  if under then silence ch s
  else
    match granuleChecks gr ch p s with
    | some e => silence ch (warn e s)
    | none => huffDecode gr ch (p + (s.granule gr ch).part23Length.toNat) (readScaleFactors gr ch (setMdPos p s))

/-! ## Level 3 instructions: `table_select` (R362) and `count1table_select` (R368) -/

def execTsel0 (s : State) : Host.Outcome State Fault Refusal := .next (pairStep 0 s)
def execTsel1 (s : State) : Host.Outcome State Fault Refusal := .next (pairStep 1 s)
def execTsel2 (s : State) : Host.Outcome State Fault Refusal := .next (pairStep 2 s)
def execTsel3 (s : State) : Host.Outcome State Fault Refusal := .next (pairStep 3 s)
def execTsel4 (s : State) : Host.Outcome State Fault Refusal := .next (reservedSelector s)
def execTsel5 (s : State) : Host.Outcome State Fault Refusal := .next (pairStep 5 s)
def execTsel6 (s : State) : Host.Outcome State Fault Refusal := .next (pairStep 6 s)
def execTsel7 (s : State) : Host.Outcome State Fault Refusal := .next (pairStep 7 s)
def execTsel8 (s : State) : Host.Outcome State Fault Refusal := .next (pairStep 8 s)
def execTsel9 (s : State) : Host.Outcome State Fault Refusal := .next (pairStep 9 s)
def execTsel10 (s : State) : Host.Outcome State Fault Refusal := .next (pairStep 10 s)
def execTsel11 (s : State) : Host.Outcome State Fault Refusal := .next (pairStep 11 s)
def execTsel12 (s : State) : Host.Outcome State Fault Refusal := .next (pairStep 12 s)
def execTsel13 (s : State) : Host.Outcome State Fault Refusal := .next (pairStep 13 s)
def execTsel14 (s : State) : Host.Outcome State Fault Refusal := .next (reservedSelector s)
def execTsel15 (s : State) : Host.Outcome State Fault Refusal := .next (pairStep 15 s)
def execTsel16 (s : State) : Host.Outcome State Fault Refusal := .next (pairStep 16 s)
def execTsel17 (s : State) : Host.Outcome State Fault Refusal := .next (pairStep 17 s)
def execTsel18 (s : State) : Host.Outcome State Fault Refusal := .next (pairStep 18 s)
def execTsel19 (s : State) : Host.Outcome State Fault Refusal := .next (pairStep 19 s)
def execTsel20 (s : State) : Host.Outcome State Fault Refusal := .next (pairStep 20 s)
def execTsel21 (s : State) : Host.Outcome State Fault Refusal := .next (pairStep 21 s)
def execTsel22 (s : State) : Host.Outcome State Fault Refusal := .next (pairStep 22 s)
def execTsel23 (s : State) : Host.Outcome State Fault Refusal := .next (pairStep 23 s)
def execTsel24 (s : State) : Host.Outcome State Fault Refusal := .next (pairStep 24 s)
def execTsel25 (s : State) : Host.Outcome State Fault Refusal := .next (pairStep 25 s)
def execTsel26 (s : State) : Host.Outcome State Fault Refusal := .next (pairStep 26 s)
def execTsel27 (s : State) : Host.Outcome State Fault Refusal := .next (pairStep 27 s)
def execTsel28 (s : State) : Host.Outcome State Fault Refusal := .next (pairStep 28 s)
def execTsel29 (s : State) : Host.Outcome State Fault Refusal := .next (pairStep 29 s)
def execTsel30 (s : State) : Host.Outcome State Fault Refusal := .next (pairStep 30 s)
def execTsel31 (s : State) : Host.Outcome State Fault Refusal := .next (pairStep 31 s)

def execCount1A (s : State) : Host.Outcome State Fault Refusal := .next (quadStep 0 s)
def execCount1B (s : State) : Host.Outcome State Fault Refusal := .next (quadStep 1 s)

end Sys2Proof.Machine
end

