-- ==== Sys2Proof/Machine/Spectral.lean ====
section
/-! DEFINITION. Layer III, third part: requantisation (R392), stereo (R400), reorder (R415), alias reduction (R418), the
inverse transform with overlap (R425), and the level 3 instructions that name a block kind (R323). -/

namespace Sys2Proof.Machine

/-! ## Bands (R343, R391) -/

/-- The band of line k among `first` .. n-1: the last one with `bounds[sfb] <= k < bounds[sfb + 1]`, as in a loop in which a
later band overwrites an earlier one. With boundaries that rise a line lies in at most one band (R391). That a line can lie
in none or in several is due to the table parameters alone (log entry 42). -/
def bandOf (bounds : List Nat) (first n k : Nat) : Option Nat :=
  (List.range n).reverse.find? fun sfb => first ≤ sfb && bounds.getD sfb 0 ≤ k && k < bounds.getD (sfb + 1) 0

/-- Whether line k lies in the short part of a kind (R391). -/
def BlockKind.shortLine (kind : BlockKind) (k : Nat) : Bool :=
  match kind with
  | .short => true
  | .mixed => decide (36 ≤ k)
  | .normal | .start | .stop | .reserved => false

/-- The band from `first` on and the window of line k in a short part: the band's 3 * wd lines hold window 0, then 1, then
2 (R391). -/
def shortPlace (c : Config) (rate first k : Nat) : Option (Nat × Nat) :=
  let b := sfbShort c rate
  (bandOf (b.map (3 * ·)) first 13 k).map fun sfb =>
    let start := b.getD sfb 0
    (sfb, (k - 3 * start) / (b.getD (sfb + 1) 0 - start))

/-- The band of line k in a long part. -/
def longPlace (c : Config) (rate k : Nat) : Option Nat := bandOf (sfbLong c rate) 0 22 k

/-! ## Requantisation (R392 to R395) -/

/-- `Exponent(g, ch, k)` in quarters: 4e is an integer, and every operation on e is exact in `NUM` (R393, R394). DESIGN
CHOICE (log entry 42): the exponent of a line in no band, which R391 does not know, is the free value `free`. -/
def exponent4 (c : Config) (rate : Nat) (g : Granule) (f : ScaleFactors) (free : Int) (k : Nat) : Int :=
  let mult4 : Nat := if g.scalefacScale = 0 then 2 else 4
  let gain : Int := (g.globalGain.toNat : Int) - 210
  if (blockKind g).shortLine k then
    match shortPlace c rate 0 k with
    | some (sfb, w) => gain - 8 * (rd g.subblockGain w).toNat - mult4 * (rd (rd f.s w) sfb).toNat
    | none => free
  else
    match longPlace c rate k with
    | some sfb => gain - mult4 * ((rd f.l sfb).toNat + g.preflag.toNat * pretab.getD sfb 0)
    | none => free

/-- The value of one line: the power law, the gain, then the sign (R392). -/
def requantized (num : NumSystem) (v : Int) (e4 : Int) : Sample :=
  if v = 0 then Num.zero
  else
    let m := Num.mul num (pow43 num v.natAbs) (pow2Quarter num e4)
    if 0 < v then m else Num.neg m

/-- `Requantize(gr, ch)`. -/
def requantize (gr ch : Nat) (s : State) : State :=
  let g := s.granule gr ch
  let f := rd s.tr.scf ch
  let lines := rd s.tr.is ch
  s.withTr { s.tr with
    xr := wr s.tr.xr ch (tab 576 fun k =>
      requantized s.cfg.num (rd lines k).toInt
        (exponent4 s.cfg s.frm.rate.toNat g f (Config.freeExponent s.freeCtr (1152 * gr + 576 * ch + k)) k)) }

/-! ## Stereo (R400 to R410) -/

/-- An intensity position with its legality (R403 to R405, R407). -/
structure Position where
  pos : Nat
  legal : Bool
  deriving DecidableEq, Repr, Inhabited

/-- Legality of a position: MPEG-1 below 7; LSF not the largest value of its field (R407). -/
def position (v1 : Bool) (p ill : Nat) : Position := ⟨p, if v1 then decide (p < 7) else p != ill⟩

/-- The last long band of a mixed block: 7 in MPEG-1, 5 in LSF (R405). -/
def lastMixedLong (s : State) : Nat := if s.frm.version = 1 then 7 else 5

/-- Whether a block kind transmits a scale factor for long band sfb. -/
def sendsLong (s : State) (kind : BlockKind) (sfb : Nat) : Bool :=
  match kind with
  | .short => false
  | .mixed => decide (sfb ≤ lastMixedLong s)
  | .normal | .start | .stop | .reserved => true

/-- `SCF[1].l[sfb]` as the stereo stage of granule gr reads it: what the right channel did not transmit reads as 0
(R410). The register itself keeps what granule 0 left when granule 1 of the right channel is short or mixed (R345). -/
def rightLong (s : State) (gr sfb : Nat) : Nat :=
  if sendsLong s (blockKind (s.granule gr 1)) sfb then (rd (rd s.tr.scf 1).l sfb).toNat else 0

def longPosition (s : State) (gr sfb : Nat) : Position :=
  position (s.frm.version = 1) (rightLong s gr sfb) (rd s.tr.ill.l sfb).toNat

def shortPosition (s : State) (w sfb : Nat) : Position :=
  position (s.frm.version = 1) (rd (rd (rd s.tr.scf 1).s w) sfb).toNat (rd (rd s.tr.ill.s w) sfb).toNat

/-- Line k of the right channel is zero. -/
def rightZero (s : State) (k : Nat) : Bool := rd (rd s.tr.is 1) k == 0

/-- The smallest n in lo..hi of which `p` holds, `hi` if none below. -/
def least (lo hi : Nat) (p : Nat → Bool) : Nat := lo + ((List.range (hi - lo)).takeWhile fun i => !p (lo + i)).length

/-- B of R403: the smallest band that starts at or above `nz`; 22 when none does, which only a table that ends below 576
allows (log entry 42). -/
def longBound (c : Config) (rate nz : Nat) : Nat := least 0 22 fun b => decide (nz ≤ (sfbLong c rate).getD b 0)

/-- Line k in a long part, band `sfb`, boundary B (R403). Band 21 takes the position of band 20. -/
def longLine (s : State) (gr bound sfb : Nat) : Option Position :=
  if sfb = 21 then (if bound ≤ 20 then some (longPosition s gr 20) else none)
  else if bound ≤ sfb then some (longPosition s gr sfb) else none

/-- Every line of window w in band sfb is zero in the right channel. -/
def windowBandZero (s : State) (w sfb : Nat) : Bool :=
  let b := sfbShort s.cfg s.frm.rate.toNat
  let start := b.getD sfb 0
  let wd := b.getD (sfb + 1) 0 - start
  (List.range wd).all fun f => rightZero s (3 * start + w * wd + f)

/-- `B_w` sought in first..13 (R404, R405): the smallest band from which on window w is zero. -/
def windowBound (s : State) (first w : Nat) : Nat :=
  least first 13 fun b => (List.range (13 - b)).all fun i => windowBandZero s w (b + i)

/-- A line of window w in short band sfb, boundary `B_w` (R404). Band 12 takes the position of band 11. -/
def shortLine (s : State) (bound w sfb : Nat) : Option Position :=
  if sfb = 12 then (if bound ≤ 11 then some (shortPosition s w 11) else none)
  else if bound ≤ sfb then some (shortPosition s w sfb) else none

/-- The boundary of the long part of a mixed block, when the three windows are zero from band 3 on (R405). -/
def mixedBound (s : State) : Nat :=
  let nz := (List.range 36).foldl (fun m k => if rightZero s k then m else k + 1) 0
  longBound s.cfg s.frm.rate.toNat nz

/-- The position of line k, `none` for `NONE`, with the block kind of channel 0 (R403 to R405); a line in no band stays
`NONE`. -/
def intensityPosition (s : State) (gr : Nat) (kind : BlockKind) (bounds : Nat → Nat) (long : Nat) (k : Nat) : Option Position :=
  let rate := s.frm.rate.toNat
  match kind with
  | .short => (shortPlace s.cfg rate 0 k).bind fun (sfb, w) => shortLine s (bounds w) w sfb
  | .mixed =>
    if 36 ≤ k then (shortPlace s.cfg rate 3 k).bind fun (sfb, w) => shortLine s (bounds w) w sfb
    else if bounds 0 = 3 ∧ bounds 1 = 3 ∧ bounds 2 = 3 then
      (longPlace s.cfg rate k).bind fun sfb =>
        if long ≤ sfb ∧ sfb ≤ lastMixedLong s then some (longPosition s gr sfb) else none
    else none
  | .normal | .start | .stop | .reserved => (longPlace s.cfg rate k).bind (longLine s gr long)

/-- `Intensity(a, p)`, MPEG-1 (R406). -/
def intensityV1 (num : NumSystem) (a : Sample) (p : Nat) : Sample × Sample :=
  if p = 6 then (a, Num.zero)
  else
    let r := intensityRatio num p
    let d := Num.add num Num.one r
    (Num.div num (Num.mul num a r) d, Num.div num a d)

/-- `Intensity(a, p)`, LSF (R408). -/
def intensityLsf (num : NumSystem) (i0 a : Sample) (p : Nat) : Sample × Sample :=
  let kl := if p % 2 = 1 then Num.pow num i0 (Num.ofNat num ((p + 1) / 2)) else Num.one
  let kr := if p % 2 = 1 ∨ p = 0 then Num.one else Num.pow num i0 (Num.ofNat num (p / 2))
  (Num.mul num a kl, Num.mul num a kr)

/-- Mid and side (R402). -/
def midSide (num : NumSystem) (a b : Sample) : Sample × Sample :=
  let r := Num.sqrt num Num.two
  (Num.div num (Num.add num a b) r, Num.div num (Num.sub num a b) r)

/-- One line of `Stereo` (R400). -/
def stereoLine (s : State) (gr : Nat) (p : Option Position) (a b : Sample) : Sample × Sample :=
  let num := s.cfg.num
  let other := if s.msBit then midSide num a b else (a, b)
  match p with
  | some q =>
    if q.legal then
      if s.frm.version = 1 then intensityV1 num a q.pos
      else intensityLsf num (intensityBase num ((s.granule gr 1).scalefacCompress.toNat % 2)) a q.pos
    else other
  | none => other

/-- `Stereo(gr)` (R400). -/
def stereo (gr : Nat) (s : State) : State :=
  if ¬ s.jointStereo then s
  else
    let kind := blockKind (s.granule gr 0)
    let first := if kind = .mixed then 3 else 0
    let bounds := tab 3 fun w => windowBound s first w
    let long := if kind = .mixed then mixedBound s else longBound s.cfg s.frm.rate.toNat (rd s.tr.nz 1).toNat
    let lines := tab 576 fun k =>
      let p := if s.isBit then intensityPosition s gr kind (rd bounds) long k else none
      stereoLine s gr p (rd (rd s.tr.xr 0) k) (rd (rd s.tr.xr 1) k)
    s.withTr { s.tr with xr := #v[lines.map Prod.fst, lines.map Prod.snd] }

/-! ## Reorder (R415) -/

/-- The line that comes to k: frequency f of window w of a band from `first` on, from `3*s + w*wd + f` to
`3*(s + f) + w`. The last band that writes line k counts, and a line that no band writes stays, as in the loop of
R415. -/
def reorderSource (c : Config) (rate first k : Nat) : Nat :=
  let b := sfbShort c rate
  match bandOf (b.map (3 * ·)) first 13 k with
  | none => k
  | some sfb =>
    let start := b.getD sfb 0
    let wd := b.getD (sfb + 1) 0 - start
    let r := k - 3 * start
    3 * start + r % 3 * wd + r / 3

/-- The reordered lines of a kind; a mixed block is reordered from band 3 on. -/
def reordered (c : Config) (rate : Nat) (kind : BlockKind) (x : Vector Sample 576) : Vector Sample 576 :=
  match kind with
  | .short => tab 576 fun k => rd x (reorderSource c rate 0 k)
  | .mixed => tab 576 fun k => rd x (reorderSource c rate 3 k)
  | .normal | .start | .stop | .reserved => x

/-! ## Alias reduction (R418, R419) -/

/-- The last boundary that a kind has: none for a short block, one for a mixed one. -/
def BlockKind.lastBoundary : BlockKind → Nat
  | .short => 0
  | .mixed => 1
  | .normal | .start | .stop | .reserved => 31

/-- Line k after the butterflies; no line is touched twice. -/
def aliasLine (num : NumSystem) (last : Nat) (x : Vector Sample 576) (k : Nat) : Sample :=
  let sb := k / 18
  let i := k % 18
  if i < 8 ∧ 1 ≤ sb ∧ sb ≤ last then
    Num.add num (Num.mul num (rd x k) (coefCS num i)) (Num.mul num (rd x (18 * sb - 1 - i)) (coefCA num i))
  else if 10 ≤ i ∧ sb + 1 ≤ last then
    let j := 17 - i
    Num.sub num (Num.mul num (rd x k) (coefCS num j)) (Num.mul num (rd x (18 * (sb + 1) + j)) (coefCA num j))
  else rd x k

def aliasReduced (num : NumSystem) (kind : BlockKind) (x : Vector Sample 576) : Vector Sample 576 :=
  tab 576 (aliasLine num kind.lastBoundary x)

/-! ## Inverse transform (R422 to R427) -/

/-- The block type of a subband (R422). -/
def BlockKind.subbandType (kind : BlockKind) (sb : Nat) : Nat :=
  if kind = .mixed ∧ sb < 2 then 0 else kind.blockType

/-- The 36 windowed values of a long transform; X[k] is `x (base + k)` (R423). -/
def transformLong (num : NumSystem) (bt : Nat) (x : Nat → Sample) : Vector Sample 36 :=
  tab 36 fun i => Num.mul num (sum num 18 fun k => Num.mul num (x k) (imdctLong num i k)) (winLong num bt i)

/-- Value i of the windowed short transform of window w; `Xw[w][k]` is X[3k + w]. -/
def shortValue (num : NumSystem) (x : Nat → Sample) (w i : Nat) : Sample :=
  Num.mul num (sum num 6 fun k => Num.mul num (x (3 * k + w)) (imdctShort num i k)) (winShort num i)

/-- The 36 values of the three short transforms, added in the order of the windows (R425, R426). -/
def transformShort (num : NumSystem) (x : Nat → Sample) : Vector Sample 36 :=
  tab 36 fun n =>
    (List.range 3).foldl (fun acc w =>
      if 6 + 6 * w ≤ n ∧ n < 18 + 6 * w then Num.add num acc (shortValue num x w (n - 6 - 6 * w)) else acc)
      Num.zero

/-- `out[0..35]` of subband sb. -/
def transformed (num : NumSystem) (kind : BlockKind) (x : Vector Sample 576) (sb : Nat) : Vector Sample 36 :=
  let bt := kind.subbandType sb
  let input (k : Nat) : Sample := rd x (18 * sb + k)
  if bt = 2 then transformShort num input else transformLong num bt input

/-- `FreqInvert` of one value: odd samples of odd subbands change sign (R427). -/
def freqInvert (sb i : Nat) (y : Sample) : Sample := if sb % 2 = 1 ∧ i % 2 = 1 then Num.neg y else y

/-- `Reorder`, `AliasReduce` and `Hybrid` of one channel with a block kind: the lines, the subband samples and the new
tail (R321, R415, R418, R425). -/
def hybrid (kind : BlockKind) (ch : Nat) (s : State) : State :=
  let num := s.cfg.num
  let x := aliasReduced num kind (reordered s.cfg s.frm.rate.toNat kind (rd s.tr.xr ch))
  let out := tab 32 (transformed num kind x)
  let tail := rd s.ov ch
  (s.withTr { s.tr with
    xr := wr s.tr.xr ch x
    hy := wr s.tr.hy ch (tab 32 fun sb => tab 18 fun i =>
      freqInvert sb i (Num.add num (rd (rd out sb) i) (rd (rd tail sb) i))) }).withOv
    (wr s.ov ch (tab 32 fun sb => tab 18 fun i => rd (rd out sb) (18 + i)))

/-! ## Level 3 instructions: block kinds (R323)

Each runs the stages that its kind selects, on the channel of the sequencer. `mixed_block_flag` is read and ignored by
START and STOP. -/

def execBlkNormal (s : State) : Host.Outcome State Fault Refusal := .next (hybrid .normal s.seqCh s)
def execBlkStart (_ : BitVec 1) (s : State) : Host.Outcome State Fault Refusal := .next (hybrid .start s.seqCh s)
def execBlkShort (s : State) : Host.Outcome State Fault Refusal := .next (hybrid .short s.seqCh s)
def execBlkMixed (s : State) : Host.Outcome State Fault Refusal := .next (hybrid .mixed s.seqCh s)
def execBlkStop (_ : BitVec 1) (s : State) : Host.Outcome State Fault Refusal := .next (hybrid .stop s.seqCh s)

/-- The reserved kind: test 2 of R376. -/
def execBlkReserved (_ : BitVec 1) (s : State) : Host.Outcome State Fault Refusal := .next (reservedSelector s)

end Sys2Proof.Machine
end

