-- ==== Sys2Proof/Machine/Layer3.lean ====
section
/-! DEFINITION. Layer III: the frame sequence (R321) and the feeding of the filters (R429). -/

namespace Sys2Proof.Machine

/-- `Feed(ch)`: 18 calls of the filter of one channel (R429). -/
def feedHybrid (ch : Nat) (s : State) : State :=
  loop 18 (fun t u => feedSynth ch (tab 32 fun sb => rd (rd (rd u.tr.hy ch) sb) t) u) s

/-- `P` of granule-channel (gr, ch): the bits of all earlier ones, gr-major, ch-minor (R333). -/
def State.bitOffset (s : State) (gr ch : Nat) : Nat :=
  ((List.range (s.nch * gr + ch)).map fun n =>
    (s.granule (n / s.nch) (n % s.nch)).part23Length.toNat).sum

/-- The stages of granule gr after its lines: requantisation of both channels, stereo, the hybrid stage channel by
channel, the filters channel by channel (R321). -/
def granuleStages (gr : Nat) (s : State) : State :=
  let n := s.nch
  let a := loop n (requantize gr) s
  let b := if n = 2 then stereo gr a else a
  let c := loop n (fun ch u => hybrid (blockKind (u.granule gr ch)) ch u) b
  loop n feedHybrid c

/-- Granule gr of the frame (R321). -/
def decodeGranule (under : Bool) (gr : Nat) (s : State) : State :=
  granuleStages gr (loop s.nch (fun ch u => decodeLines under gr ch (u.bitOffset gr ch) u) s)

/-- What follows the side information; it cannot fail (R321). -/
def decodeMain3 (s : State) : State :=
  loop s.ngr (decodeGranule s.underRun) (reservoirStep s)

/-- `L3Decode` (R321). -/
def decode3 : Act Unit := do
  skipCheckWord
  parseSideInfo
  modify decodeMain3

end Sys2Proof.Machine
end

