-- ==== Sys2Proof/WellFormed.lean ====
section
/-! DEFINITION. The check that an instruction is one that the encodings of 30_encoding.md can spell and that its own
rule admits. -/

namespace Sys2Proof

/-- The command words that some row of R122 admits (the rows' `legal_mask` and `legal_match`). -/
def legalCommand (w : CmdWord) : Bool :=
  let op := cmdOp w
  cmdRsv w == 0 &&
    ((op == 0x30 || op == 0x50) ||
     (op == 0x10 && cmdD w == 0) ||
     (op == 0x40 && cmdA w == 0) ||
     ((op == 0x01 || op == 0x02 || op == 0x03 || op == 0x11 || op == 0x12 || op == 0x20 || op == 0x31) &&
        cmdA w == 0 && cmdD w == 0))

/-- A selector of `GET_PARAM` with an index it admits (R456). -/
def legalParam (sel : BitVec 8) (idx : BitVec 32) : Bool :=
  sel.toNat ≤ 27 && (if sel.toNat = 22 ∨ sel.toNat = 23 then idx.toNat ≤ 31 else idx == 0)

/-- An instruction that its row can spell and, for a command, that is no `IllegalCommand` (R126) at the default
parameters of R8. A reserved header row or selector is a row of the table and is well-formed as such. -/
def wellFormed : Instr → Bool
  | .readbits n => 1 ≤ n.toNat && n.toNat ≤ 32
  | .setOutput d => d.toNat < 256
  | .getParam sel idx => legalParam sel idx
  | .illegalCmd w => !legalCommand w
  | .frameL1 h => headerClass .eleven h == .layer1
  | .frameL2 h => headerClass .eleven h == .layer2
  | .frameL3 h => headerClass .eleven h == .layer3
  | .hdrNoSync h => headerClass .eleven h == .noSync
  | .hdrRsvVersion h => headerClass .eleven h == .rsvVersion
  | .hdrRsvLayer h => headerClass .eleven h == .rsvLayer
  | .hdrRsvBitrate h => headerClass .eleven h == .rsvBitrate
  | .hdrRsvRate h => headerClass .eleven h == .rsvRate
  | .hdrFreeFormat h => headerClass .eleven h == .freeFormat
  | .reset | .reinit | .restart | .sync | .parseHeader | .decodeFrame | .eqSetband _ _ | .eqApply
  | .readbit | .nextHeader | .setEqualizer _ | .decodeNext
  | .blkNormal | .blkStart _ | .blkShort | .blkMixed | .blkStop _ | .blkReserved _
  | .tsel0 | .tsel1 | .tsel2 | .tsel3 | .tsel4 | .tsel5 | .tsel6 | .tsel7
  | .tsel8 | .tsel9 | .tsel10 | .tsel11 | .tsel12 | .tsel13 | .tsel14 | .tsel15
  | .tsel16 | .tsel17 | .tsel18 | .tsel19 | .tsel20 | .tsel21 | .tsel22 | .tsel23
  | .tsel24 | .tsel25 | .tsel26 | .tsel27 | .tsel28 | .tsel29 | .tsel30 | .tsel31
  | .count1A | .count1B => true

end Sys2Proof
end

