-- ==== Sys2Proof/Machine/Facade.lean ====
section
/-! DEFINITION. The façade: `DECODE_FRAME` (R441), `SET_OUTPUT` (R452), `GET_PARAM` (R456), and the frames as level 2
instructions (R2, R133). -/

namespace Sys2Proof.Machine

/-! ## DECODE_FRAME (R441 to R449) -/

/-- A header is held and the cursor is still just after it. -/
def State.headerHeld (s : State) : Bool := s.hdr.valid && s.br.pos == s.hdr.start + 32

/-- The number of body bytes. -/
def State.bodyLen (s : State) : Nat := s.frm.len.toNat - 4

/-- The session is initialised from the first frame (R443). -/
def openSession (s : State) : State :=
  if s.ses.init then s else s.withSes { s.ses with channels := s.frm.channels, rate := s.frm.rate, init := true }

/-- The frame agrees with the session, or there is none yet (R443, R444). -/
def State.sessionAgrees (s : State) : Bool :=
  !s.ses.init || (s.frm.channels == s.ses.channels && s.frm.rate == s.ses.rate)

def checkSession : Act Unit := do
  if (← get).sessionAgrees then modify openSession else throw .sessionMismatch

/-- The bit address after the body. -/
def State.bodyEnd (s : State) : Nat := s.br.pos.toNat + 8 * s.bodyLen

/-- The body bytes in the stream, from the cursor on at any alignment (R88, R445). -/
def State.bodyBytes (s : State) : List Byte :=
  (List.range s.bodyLen).map fun i => BitVec.ofNat 8 (bitsAt s.src.bytes (s.br.pos.toNat + 8 * i) 8)

/-- The body comes into `FB` and the cursor moves past it. -/
def takeBody (s : State) : State :=
  ((pullTo (bytesFor s.bodyEnd) s).withFb { bytes := s.bodyBytes, pos := 0 }).withPos s.bodyEnd

/-- `FetchBody` (R445). -/
def fetchBody : Act Unit := fun s =>
  let t := pullTo (bytesFor s.bodyEnd) s
  if t.br.pulled.toNat < bytesFor s.bodyEnd then .error .streamExhausted t else .ok () (takeBody s)

/-- The layer's slot is made at its first use; making the Layer III slot empties `RES` and `OV` (R44, R446). -/
def makeSlot (layer : Nat) (s : State) : State :=
  if s.made.get layer then s
  else
    let t := if layer = 3 then (s.withRes []).withOv resetValues.ov else s
    t.withMade (s.made.set layer)

/-- `L1Decode`, `L2Decode` or `L3Decode` (R447). -/
def decodeLayer (layer : Nat) : Act Unit :=
  if layer = 1 then decode1 else if layer = 2 then decode2 else decode3

/-- The contents of `FB` are unspecified once the frame is decoded (R40; log entry 14); its length and cursor stay. -/
def forgetFb (s : State) : State :=
  (s.withFb { s.fb with
    bytes := (List.range s.fb.bytes.length).map fun i => BitVec.ofNat 8 (Config.freeElement s.freeCtr i) }).withFreeCtr
    (s.freeCtr + 1)

/-- The layer decoder on the body in `FB`, which is left unspecified however it ends. -/
def decodeBody (layer : Nat) : Act Unit := fun s =>
  match decodeLayer layer s with
  | .ok _ t => .ok () (forgetFb t)
  | .error e t => .error e (forgetFb t)

/-- `DECODE_FRAME` with `valid` and `layer` as R441 computes them. -/
def decodeHeld (layer : Nat) : Act (BitVec 32) := do
  checkSession
  fetchBody
  modify (makeSlot layer)
  modify sinkClear
  decodeBody layer
  return (← get).frm.spf.setWidth 32

/-- `DECODE_FRAME` (R441). -/
def decodeFrameBody : Act (BitVec 32) := do
  let s ← get
  if s.headerHeld then cursorCheck s.bodyEnd
  set (s.withHdr { s.hdr with valid := false })
  let layer := if s.headerHeld then s.frm.layer.toNat else 0
  if layer = 0 then throw .unsupportedLayer
  decodeHeld layer

def execDecodeFrame (s : State) : Host.Outcome State Fault Refusal :=
  .next (runCommand decodeFrameBody s)

/-! ## Frames as level 2 instructions (R2, R133)

The engine has fetched the header word `h`. The header is accepted as `PARSE_HEADER` accepts it and the frame is
decoded as `DECODE_FRAME` decodes it, by the layer that the row names, with one result word (log entry 21). -/

def frameBody (layerCode : BitVec 2) (h : HeaderFields) : Act (BitVec 32) := do
  modify fun s => acceptHeader { h with layerCode := layerCode } (fetchedStart s) s
  decodeFrameBody

def execFrameL1 (h : HeaderFields) (s : State) : Host.Outcome State Fault Refusal :=
  .next (runCommand (frameBody 3 h) s)

def execFrameL2 (h : HeaderFields) (s : State) : Host.Outcome State Fault Refusal :=
  .next (runCommand (frameBody 2 h) s)

def execFrameL3 (h : HeaderFields) (s : State) : Host.Outcome State Fault Refusal :=
  .next (runCommand (frameBody 1 h) s)

/-! ## SET_OUTPUT (R452) -/

def setOutputBody (sink : BitVec 32) : Act (BitVec 32) := do
  if (← get).cfg.nSinks.val ≤ sink.toNat then throw .illegalCommand
  modify fun s => s.withOutSink (BitVec.ofNat 8 sink.toNat)
  return 0

def execSetOutput (sink : BitVec 32) (s : State) : Host.Outcome State Fault Refusal :=
  .next (runCommand (setOutputBody sink) s)

/-! ## GET_PARAM (R456) -/

/-- `DUR_MS`: 0 without a rate. -/
def durMs (f : Frm) : Nat := if f.rate = 0 then 0 else f.spf.toNat * 1000 / f.rate.toNat

/-- The table of R456. -/
def paramValue (s : State) (sel idx : Nat) : BitVec 32 :=
  match sel with
  | 0 => s.ses.rate
  | 1 => s.ses.channels.setWidth 32
  | 2 => s.frm.bitrate
  | 3 => s.frm.len.setWidth 32
  | 4 => s.frm.durUs
  | 5 => BitVec.ofNat 32 (durMs s.frm)
  | 6 => BitVec.ofNat 32 s.frm.vbr.toNat
  | 7 => s.frm.version.setWidth 32
  | 8 => s.frm.layer.setWidth 32
  | 9 => s.frm.rate
  | 10 => s.frm.channels.setWidth 32
  | 11 => s.frm.spf.setWidth 32
  | 12 => s.hdr.word
  | 13 => BitVec.ofNat 32 s.hdr.valid.toNat
  | 14 => s.hdr.start.extractLsb' 0 32
  | 15 => s.hdr.start.extractLsb' 32 32
  | 16 => s.br.pos.extractLsb' 0 32
  | 17 => s.br.pos.extractLsb' 32 32
  | 18 => s.br.pulled.extractLsb' 0 32
  | 19 => s.br.pulled.extractLsb' 32 32
  | 20 => BitVec.ofNat 32 s.br.eod.toNat
  | 21 => s.st.gerr
  | 22 => Num.toBinary32 (rd s.eq idx)
  | 23 => Num.toBinary32 (rd (bandFactors s) idx)
  | 24 => BitVec.ofNat 32 s.ses.init.toNat
  | 25 => BitVec.ofNat 32 s.res.length
  | 26 => s.outSink.setWidth 32
  | 27 => s.made.bits
  | _ => 0

def getParamBody (sel : BitVec 8) (idx : BitVec 32) : Act (BitVec 32) := do
  if !legalParam sel idx then throw .illegalCommand
  return paramValue (← get) sel.toNat idx.toNat

def execGetParam (sel : BitVec 8) (idx : BitVec 32) (s : State) : Host.Outcome State Fault Refusal :=
  .next (runCommand (getParamBody sel idx) s)

/-! ## Illegal command words (R126) -/

def execIllegalCmd (_ : CmdWord) (s : State) : Host.Outcome State Fault Refusal :=
  .next (runCommand (throw .illegalCommand) s)

end Sys2Proof.Machine
end

