-- ==== Sys2Proof/Machine/Pseudo.lean ====
section
/-! DEFINITION. The pseudo-instructions (R161): each is the sequence of commands it expands to, one result word per
command, with a boundary for `EQW` between two of them. -/

namespace Sys2Proof.Machine

/-- The next command of an expansion. -/
def thenCommand (body : Act (BitVec 32)) (s : State) : State := runCommand body (eqBoundary s)

/-- `READBIT` (R182). -/
def execReadbit (s : State) : Host.Outcome State Fault Refusal := .next (runCommand (readbitsBody 1) s)

/-- `EQ_SETBAND i, v_i` for i = 0..31; before every one but the first a boundary. -/
def setBands (values : Vector (BitVec 32) 32) (s : State) : State :=
  loop 31 (fun i => thenCommand (eqSetbandBody (BitVec.ofNat 8 (i + 1)) (rd values (i + 1))))
    (runCommand (eqSetbandBody 0 (rd values 0)) s)

/-- `SET_EQUALIZER` (R239). -/
def execSetEqualizer (values : Vector (BitVec 32) 32) (s : State) : Host.Outcome State Fault Refusal :=
  .next (thenCommand eqApplyBody (setBands values s))

/-- `SYNC`, and if it found a pattern `PARSE_HEADER`, until a header is accepted or the stream ends; `fuel` rounds.
The first command of a round but the first has a boundary before it. -/
def nextHeaderLoop : Nat → State → State
  | 0, s => s
  | fuel + 1, s =>
    let t := runCommand syncBody s
    if t.st.code ≠ 0 then t
    else
      let u := thenCommand parseHeaderBody t
      if u.st.code = 0 ∨ u.st.code = Code.streamExhausted.toByte then u
      else nextHeaderLoop fuel (eqBoundary u)

/-- Every refused header moves the cursor on by 8 bits, so there are no more rounds than bytes, and a last one (R161). -/
def nextHeader (s : State) : State := nextHeaderLoop (s.src.bytes.length + 1) s

def execNextHeader (s : State) : Host.Outcome State Fault Refusal := .next (nextHeader s)

/-- `DECODE_NEXT` (R458). -/
def decodeNext (s : State) : State :=
  let t := nextHeader s
  if t.st.code = 0 then thenCommand decodeFrameBody t else t

def execDecodeNext (s : State) : Host.Outcome State Fault Refusal := .next (decodeNext s)

end Sys2Proof.Machine
end

