-- ==== Sys2Proof/Machine/Resets.lean ====
section
/-! DEFINITION. `RESET`, `REINIT`, `RESTART` (R521 to R524) and the reset input. -/

namespace Sys2Proof.Machine

/-! ## What a reset leaves unspecified (R524) -/

/-- The transient registers with free contents: element k is the k-th value of one use of the free value. -/
def Transient.free (num : NumSystem) (c : Nat) : Transient :=
  let f := Config.freeElement c
  let sample (k : Nat) : Sample := Num.ofPattern num (f k)
  let factors (k : Nat) : ScaleFactors :=
    { l := tab 23 fun i => BitVec.ofNat 5 (f (k + i))
      s := tab 3 fun w => tab 13 fun i => BitVec.ofNat 5 (f (k + 23 + 13 * w + i)) }
  let granule (k : Nat) : Granule :=
    { part23Length := BitVec.ofNat 12 (f k)
      bigValues := BitVec.ofNat 9 (f (k + 1))
      globalGain := BitVec.ofNat 8 (f (k + 2))
      scalefacCompress := BitVec.ofNat 9 (f (k + 3))
      windowSwitching := BitVec.ofNat 1 (f (k + 4))
      blockType := BitVec.ofNat 2 (f (k + 5))
      mixedBlock := BitVec.ofNat 1 (f (k + 6))
      tableSelect := tab 3 fun i => BitVec.ofNat 5 (f (k + 7 + i))
      subblockGain := tab 3 fun i => BitVec.ofNat 3 (f (k + 10 + i))
      region0Count := BitVec.ofNat 4 (f (k + 13))
      region1Count := BitVec.ofNat 4 (f (k + 14))
      preflag := BitVec.ofNat 1 (f (k + 15))
      scalefacScale := BitVec.ofNat 1 (f (k + 16))
      count1TableSelect := BitVec.ofNat 1 (f (k + 17)) }
  { sbs := tab 2 fun ch => tab 32 fun sb => sample (32 * ch + sb)
    grid := tab 2 fun ch => tab 32 fun sb => tab 36 fun i => sample (64 + 1152 * ch + 36 * sb + i)
    l1 :=
      { alloc := tab 2 fun ch => tab 32 fun sb => BitVec.ofNat 4 (f (2400 + 32 * ch + sb))
        scf := tab 2 fun ch => tab 32 fun sb => BitVec.ofNat 6 (f (2500 + 32 * ch + sb)) }
    l2 :=
      { alloc := tab 2 fun ch => tab 32 fun sb => BitVec.ofNat 4 (f (2600 + 32 * ch + sb))
        scfsi := tab 2 fun ch => tab 32 fun sb => BitVec.ofNat 2 (f (2700 + 32 * ch + sb))
        scf := tab 2 fun ch => tab 32 fun sb => tab 3 fun p => BitVec.ofNat 6 (f (2800 + 96 * ch + 3 * sb + p)) }
    si :=
      { mainDataBegin := BitVec.ofNat 9 (f 3000)
        scfsi := tab 2 fun ch => tab 4 fun b => BitVec.ofNat 1 (f (3001 + 4 * ch + b))
        g := tab 2 fun gr => tab 2 fun ch => granule (3100 + 100 * gr + 50 * ch) }
    scf := tab 2 fun ch => factors (3400 + 100 * ch)
    ill := factors 3600
    is := tab 2 fun ch => tab 576 fun k => BitVec.ofNat 16 (f (4000 + 576 * ch + k))
    nz := tab 2 fun ch => BitVec.ofNat 10 (f (5200 + ch))
    xr := tab 2 fun ch => tab 576 fun k => sample (5300 + 576 * ch + k)
    hy := tab 2 fun ch => tab 32 fun sb => tab 18 fun i => sample (6500 + 576 * ch + 18 * sb + i)
    md :=
      { bytes := (List.range (f 7700)).map fun i => BitVec.ofNat 8 (f (8000 + i))
        base := BitVec.ofNat 32 (f 7701)
        len := BitVec.ofNat 32 (f 7702)
        pos := BitVec.ofNat 32 (f 7703) } }

/-- The transient registers become unspecified (R521 to R524; log entry 14). -/
def forgetTransient (s : State) : State := (s.withTr (Transient.free s.cfg.num s.freeCtr)).withFreeCtr (s.freeCtr + 1)

/-! ## The byte source at a reset (R521, R523) -/

/-- The cursor is reset: what the source delivers next becomes `SRC[0]`. That is what the host has positioned it to, or
else what it had not yet delivered; bytes pulled ahead are discarded (R523; log entry 9). -/
def rewindSource (s : State) : State :=
  let bytes := s.src.upcoming.getD (s.src.bytes.drop s.br.pulled.toNat)
  (s.withSrc { bytes := bytes, upcoming := none }).withBr resetValues.br

/-! ## The three commands -/

/-- What `RESTART` clears (R523); the other two commands and the reset input go through here. DESIGN CHOICE (log entry 41):
the sequencer `seq`, the model's own field, stays. DESIGN CHOICE (log entry 43): `LD.made` stays, as R44, R446, R523, R524 and
D27 say, although D32 says that `RESTART` clears it. -/
def restartState (s : State) : State :=
  let t := forgetTransient (rewindSource s)
  ((((t.withHdr resetValues.hdr).withFrm resetValues.frm).withFb resetValues.fb).withRes resetValues.res).withSes
    { s.ses with prevBitrate := 0, vbr := false }

/-- What `REINIT` clears (R522). -/
def reinitState (s : State) : State :=
  (((restartState s).withSes resetValues.ses).withMade resetValues.made).withOv resetValues.ov
    |>.withSf (tab 2 fun ch => { rd s.sf ch with v := resetValues.filter.v })

/-- What `RESET` clears: everything but the sinks, the byte source and what is no state of the block (R521, R47). -/
def resetState (s : State) : State :=
  ((((reinitState s).withSf (Vector.replicate 2 resetValues.filter)).withEq resetValues.eq).withOutSink
    resetValues.outSink).withSt resetValues.st

def restartBody : Act (BitVec 32) := do
  modify restartState
  return 0

def reinitBody : Act (BitVec 32) := do
  modify reinitState
  return 0

def resetBody : Act (BitVec 32) := do
  modify resetState
  return 0

def execRestart (s : State) : Host.Outcome State Fault Refusal := .next (runCommand restartBody s)

def execReinit (s : State) : Host.Outcome State Fault Refusal := .next (runCommand reinitBody s)

def execReset (s : State) : Host.Outcome State Fault Refusal := .next (runCommand resetBody s)

end Sys2Proof.Machine
end

