-- ==== Sys2Proof/Machine/Dispatch.lean ====
section
/-! DEFINITION. One arm per instruction, each one call of its meaning. -/

namespace Sys2Proof.Machine

def exec (i : Instr) (s : State) : Host.Outcome State Fault Refusal :=
  match i with
  -- level 1: commands
  | .reset => Sys2Proof.Machine.execReset s
  | .reinit => Sys2Proof.Machine.execReinit s
  | .restart => Sys2Proof.Machine.execRestart s
  | .readbits n => Sys2Proof.Machine.execReadbits n s
  | .sync => Sys2Proof.Machine.execSync s
  | .parseHeader => Sys2Proof.Machine.execParseHeader s
  | .decodeFrame => Sys2Proof.Machine.execDecodeFrame s
  | .eqSetband band value => Sys2Proof.Machine.execEqSetband band value s
  | .eqApply => Sys2Proof.Machine.execEqApply s
  | .setOutput sink => Sys2Proof.Machine.execSetOutput sink s
  | .getParam sel idx => Sys2Proof.Machine.execGetParam sel idx s
  | .illegalCmd w => Sys2Proof.Machine.execIllegalCmd w s
  -- pseudo-instructions
  | .readbit => Sys2Proof.Machine.execReadbit s
  | .nextHeader => Sys2Proof.Machine.execNextHeader s
  | .setEqualizer values => Sys2Proof.Machine.execSetEqualizer values s
  | .decodeNext => Sys2Proof.Machine.execDecodeNext s
  -- level 2: frames
  | .frameL1 h => Sys2Proof.Machine.execFrameL1 h s
  | .frameL2 h => Sys2Proof.Machine.execFrameL2 h s
  | .frameL3 h => Sys2Proof.Machine.execFrameL3 h s
  | .hdrNoSync h => Sys2Proof.Machine.execHdrNoSync h s
  | .hdrRsvVersion h => Sys2Proof.Machine.execHdrRsvVersion h s
  | .hdrRsvLayer h => Sys2Proof.Machine.execHdrRsvLayer h s
  | .hdrRsvBitrate h => Sys2Proof.Machine.execHdrRsvBitrate h s
  | .hdrRsvRate h => Sys2Proof.Machine.execHdrRsvRate h s
  | .hdrFreeFormat h => Sys2Proof.Machine.execHdrFreeFormat h s
  -- level 3: block kinds
  | .blkNormal => Sys2Proof.Machine.execBlkNormal s
  | .blkStart m => Sys2Proof.Machine.execBlkStart m s
  | .blkShort => Sys2Proof.Machine.execBlkShort s
  | .blkMixed => Sys2Proof.Machine.execBlkMixed s
  | .blkStop m => Sys2Proof.Machine.execBlkStop m s
  | .blkReserved m => Sys2Proof.Machine.execBlkReserved m s
  -- level 3: table_select
  | .tsel0 => Sys2Proof.Machine.execTsel0 s
  | .tsel1 => Sys2Proof.Machine.execTsel1 s
  | .tsel2 => Sys2Proof.Machine.execTsel2 s
  | .tsel3 => Sys2Proof.Machine.execTsel3 s
  | .tsel4 => Sys2Proof.Machine.execTsel4 s
  | .tsel5 => Sys2Proof.Machine.execTsel5 s
  | .tsel6 => Sys2Proof.Machine.execTsel6 s
  | .tsel7 => Sys2Proof.Machine.execTsel7 s
  | .tsel8 => Sys2Proof.Machine.execTsel8 s
  | .tsel9 => Sys2Proof.Machine.execTsel9 s
  | .tsel10 => Sys2Proof.Machine.execTsel10 s
  | .tsel11 => Sys2Proof.Machine.execTsel11 s
  | .tsel12 => Sys2Proof.Machine.execTsel12 s
  | .tsel13 => Sys2Proof.Machine.execTsel13 s
  | .tsel14 => Sys2Proof.Machine.execTsel14 s
  | .tsel15 => Sys2Proof.Machine.execTsel15 s
  | .tsel16 => Sys2Proof.Machine.execTsel16 s
  | .tsel17 => Sys2Proof.Machine.execTsel17 s
  | .tsel18 => Sys2Proof.Machine.execTsel18 s
  | .tsel19 => Sys2Proof.Machine.execTsel19 s
  | .tsel20 => Sys2Proof.Machine.execTsel20 s
  | .tsel21 => Sys2Proof.Machine.execTsel21 s
  | .tsel22 => Sys2Proof.Machine.execTsel22 s
  | .tsel23 => Sys2Proof.Machine.execTsel23 s
  | .tsel24 => Sys2Proof.Machine.execTsel24 s
  | .tsel25 => Sys2Proof.Machine.execTsel25 s
  | .tsel26 => Sys2Proof.Machine.execTsel26 s
  | .tsel27 => Sys2Proof.Machine.execTsel27 s
  | .tsel28 => Sys2Proof.Machine.execTsel28 s
  | .tsel29 => Sys2Proof.Machine.execTsel29 s
  | .tsel30 => Sys2Proof.Machine.execTsel30 s
  | .tsel31 => Sys2Proof.Machine.execTsel31 s
  -- level 3: count1table_select
  | .count1A => Sys2Proof.Machine.execCount1A s
  | .count1B => Sys2Proof.Machine.execCount1B s

end Sys2Proof.Machine
end

