-- ==== Sys2Proof/Machine/Fetch.lean ====
section
/-! DEFINITION. How a request reaches the engine: fetching the header word of a frame, positioning the byte source, and
placing one instruction where the next step takes it. -/

namespace Sys2Proof.Machine

/-- Fetch the header word at the bit cursor as `PARSE_HEADER` does (R201): the cursor moves past it; without 32 bits
`HDR` and `FRM` are cleared. -/
def fetchFrameWord : Act HeaderWord := do
  cursorCheck ((← get).br.pos.toNat + 32)
  modify fun s => s.withHdr { s.hdr with valid := false }
  fetchHeader

/-- The host positions the byte source: at once while nothing has been pulled, else for after the next cursor reset
(R104, R523; log entry 9). -/
def present (bytes : List Byte) (s : State) : State :=
  if s.br.pulled = 0 ∧ s.br.eod = false then s.withSrc { bytes := bytes, upcoming := none }
  else s.withSrc { s.src with upcoming := some bytes }

/-- The hardware's reset input: a `RESET` without a result word (R521). -/
def resetInput (s : State) : State := resetState s

/-- The next request leaves the list. -/
def dequeue (rest : List HostOp) (s : State) : State := s.withCp { s.cp with ops := rest }

/-! ## Placing one instruction (log entry 34) -/

/-- The request becomes the next one of the host. -/
def request (op : HostOp) (s : State) : State := s.withCp { s.cp with ops := op :: s.cp.ops }

/-- The 32 bits of a header word written over the source at bit address p, followed by zeros: more than the longest
frame (2881 bytes, R213) needs. -/
def spliceHeader (bytes : List Byte) (p : Nat) (w : HeaderWord) : List Byte :=
  let bit (k : Nat) : Bool := if k < p then bitAt bytes k else decide (k < p + 32) && w.getLsbD (31 - (k - p))
  let byte (n : Nat) : Byte := BitVec.ofNat 8 ((List.range 8).foldl (fun v i => 2 * v + (bit (8 * n + i)).toNat) 0)
  bytes.take (p / 8) ++ (List.range 5).map (fun i => byte (p / 8 + i)) ++ List.replicate 2900 0

/-- Place a header word at the bit cursor, with a zero body behind it. -/
def placeHeader (w : HeaderWord) (s : State) : State :=
  let p := s.br.pos.toNat
  (s.withSrc { s.src with bytes := spliceHeader s.src.bytes p w }).withBr
    { s.br with eod := false, pulled := BitVec.ofNat 64 (min s.br.pulled.toNat (bytesFor p)) }

/-- Place what is fetched: a header word at the bit cursor of the byte source, and the frame there is requested; a
command word, a selector or a pseudo-instruction is itself the request. -/
def placeFetched (f : Fetched) (s : State) : State :=
  match f with
  | .command w => request (.command w) s
  | .pseudo p => request (.pseudo p) s
  | .selector x => request (.selector x) s
  | .header w => request .frame (placeHeader w s)

end Sys2Proof.Machine
end

