-- ==== Sys2Proof/Machine/Step.lean ====
section
/-! DEFINITION. One step: `EQW` may act, then the next request of the host is performed. -/

namespace Sys2Proof.Machine

/-- The frame at the bit cursor: its header word is fetched and the row of the word is executed (R2). A fetch that
fails ends as a command does. -/
def stepFrame (s : State) : Host.Outcome State Fault Refusal :=
  match fetchFrameWord (startCommand s) with
  | .ok w t => exec (decode t.cfg.syncBits (.header w)) t
  | .error e t => .next (endCommand e 0 t)

/-- Perform one request. -/
def perform (op : HostOp) (s : State) : Host.Outcome State Fault Refusal :=
  match op with
  | .command w => exec (decode s.cfg.syncBits (.command w)) s
  | .pseudo p => exec (decode s.cfg.syncBits (.pseudo p)) s
  | .selector x => exec (decode s.cfg.syncBits (.selector x)) s
  | .frame => stepFrame s
  | .present bytes => .next (present bytes s)
  | .resetInput => .next (resetInput s)

/-- One step. Without a request the block is idle (R526). -/
def step (s : State) : Host.Outcome State Fault Refusal :=
  let t := eqBoundary s
  match t.cp.ops with
  | [] => .next t
  | op :: rest => perform op (dequeue rest t)

/-- Store the instruction of a table row where `step` takes its next one (log entry 34). -/
def State.withFetchWord (s : State) (nbits w : Nat) : State :=
  match fetchedOfBits nbits w with
  | .ok f => placeFetched f s
  | .error _ => s

end Sys2Proof.Machine
end

