-- ==== Sys2Proof/Safety.lean ====
section
/-! DEFINITION. What every run keeps: the invariants that the spec states of its registers, as one predicate on the state,
and the frames that claims speak of. -/

namespace Sys2Proof.Machine

/-! ## Invariants -/

/-- The bit reader: the cursor is covered by what was pulled, nothing beyond the source was pulled, and the sentinel was
met only at its end (R22 to R24, R84). -/
structure BrInv (s : State) : Prop where
  pos : s.br.pos.toNat ≤ 8 * s.br.pulled.toNat
  pulled : s.br.pulled.toNat ≤ s.src.bytes.length
  eod : s.br.eod = true → s.br.pulled.toNat = s.src.bytes.length

/-- A held header is an accepted one, and `FRM` is what it determines (R26 to R28, R215). -/
def HeldInv (s : State) : Prop :=
  s.hdr.valid = true →
    headerClass s.cfg.syncBits s.hdr.fields ∈ [.layer1, .layer2, .layer3] ∧
      s.frm = headerFrm s.cfg.lsfHalveL2 s.hdr.fields s.frm.vbr

/-- Equalizer values stay in [-1.0, 1.0] and are numbers (R31). -/
def EqInv (s : State) : Prop :=
  ∀ i < 32, Num.le Num.minusOne (rd s.eq i) = true ∧ Num.le (rd s.eq i) Num.one = true

/-- The session: without one nothing of it is set, with one it has one or two channels (R29, R44). -/
structure SesInv (s : State) : Prop where
  off : s.ses.init = false → s.ses.channels = 0 ∧ s.ses.rate = 0 ∧ s.made = resetValues.made
  on : s.ses.init = true → s.ses.channels = 1 ∨ s.ses.channels = 2

/-- The reservoir is at most `RES_KEEP` bytes, and empty without the Layer III slot (R42, R44). -/
structure ResInv (s : State) : Prop where
  len : s.res.length ≤ resKeep
  slot : s.made.l3 = false → s.res = []

/-- The result registers hold codes of R471: 6 and 7 only as warnings. -/
structure StInv (s : State) : Prop where
  code : s.st.code ∈ [0, 1, 2, 3, 4, 5, 8, 9, 10].map (BitVec.ofNat 8)
  warn : s.st.warn ∈ [0, 6, 7].map (BitVec.ofNat 8)
  first : s.st.first ∈ [0, 6, 7].map (BitVec.ofNat 8)

/-- The bound sink is one that the port can name, and the null sink holds nothing (R35, R96). -/
structure SinkInv (s : State) : Prop where
  bound : s.outSink = 0 ∨ s.outSink.toNat < s.cfg.nSinks.val
  null : rd s.sinks 0 = { data := Vector.replicate 2 [] }

/-- The invariant of the machine. -/
structure Inv (s : State) : Prop where
  br : BrInv s
  held : HeldInv s
  eq : EqInv s
  ses : SesInv s
  res : ResInv s
  st : StInv s
  sink : SinkInv s
  /-- `FRM.vbr` never outlives `SES.vbr` (R217) -/
  vbr : s.frm.vbr = true → s.ses.vbr = true
  /-- the cursor of the frame buffer stays in it (R40, R184) -/
  fb : s.fb.pos.toNat ≤ 8 * s.fb.bytes.length

/-! ## Frames

Each says that t is s but for the groups that it leaves out. -/

/-- Only `FB.pos` and the transient registers may differ: what reading a frame body does. -/
structure ParseFrame (s t : State) : Prop where
  br : t.br = s.br
  hdr : t.hdr = s.hdr
  frm : t.frm = s.frm
  ses : t.ses = s.ses
  eq : t.eq = s.eq
  sf : t.sf = s.sf
  outSink : t.outSink = s.outSink
  st : t.st = s.st
  res : t.res = s.res
  ov : t.ov = s.ov
  made : t.made = s.made
  seq : t.seq = s.seq
  src : t.src = s.src
  sinks : t.sinks = s.sinks
  cp : t.cp = s.cp
  ep : t.ep = s.ep
  cfg : t.cfg = s.cfg
  freeCtr : t.freeCtr = s.freeCtr
  fbBytes : t.fb.bytes = s.fb.bytes

/-- Only what `EQW` writes may differ: equalizer values, coefficients, its port (R495), and the latched result (R124). -/
structure EqwFrame (s t : State) : Prop where
  br : t.br = s.br
  hdr : t.hdr = s.hdr
  frm : t.frm = s.frm
  ses : t.ses = s.ses
  outSink : t.outSink = s.outSink
  first : t.st.first = s.st.first
  gerr : t.st.gerr = s.st.gerr
  fb : t.fb = s.fb
  res : t.res = s.res
  ov : t.ov = s.ov
  made : t.made = s.made
  tr : t.tr = s.tr
  seq : t.seq = s.seq
  src : t.src = s.src
  sinks : t.sinks = s.sinks
  cp : t.cp = s.cp
  cfg : t.cfg = s.cfg
  freeCtr : t.freeCtr = s.freeCtr
  history : ∀ ch < 2, (rd t.sf ch).v = (rd s.sf ch).v

/-- Only what synthesis calls write may differ, and what `EQW` writes at their boundaries. -/
structure SynthFrame (s t : State) : Prop where
  br : t.br = s.br
  hdr : t.hdr = s.hdr
  frm : t.frm = s.frm
  ses : t.ses = s.ses
  outSink : t.outSink = s.outSink
  first : t.st.first = s.st.first
  gerr : t.st.gerr = s.st.gerr
  fb : t.fb = s.fb
  res : t.res = s.res
  ov : t.ov = s.ov
  made : t.made = s.made
  seq : t.seq = s.seq
  src : t.src = s.src
  cp : t.cp = s.cp
  cfg : t.cfg = s.cfg
  freeCtr : t.freeCtr = s.freeCtr
  tr : { t.tr with sbs := s.tr.sbs } = s.tr

/-- Only what the granules of a Layer III frame write may differ: warnings, reservoir, overlap, transient registers, the
sequencer, and what synthesis calls write. -/
structure Layer3Frame (s t : State) : Prop where
  br : t.br = s.br
  hdr : t.hdr = s.hdr
  frm : t.frm = s.frm
  ses : t.ses = s.ses
  outSink : t.outSink = s.outSink
  fb : t.fb = s.fb
  made : t.made = s.made
  src : t.src = s.src
  cp : t.cp = s.cp
  cfg : t.cfg = s.cfg
  freeCtr : t.freeCtr = s.freeCtr

/-! ## How a command ended -/

/-- The command ended with this code and value and met no warning: `ST` is latched and the result word delivered
(R37, R124, R473). -/
structure Ended (code : Code) (value : BitVec 32) (s t : State) : Prop where
  st : t.st = { code := code.toByte, warn := 0, first := 0, value := value, gerr := s.st.gerr }
  cp : t.cp = { s.cp with results := resultWord code.toByte 0 value :: s.cp.results }

/-- A warning was recorded (R38, R486). -/
def Warned (e : Code) (s t : State) : Prop :=
  t.st =
    { s.st with
      warn := if s.st.first = 0 then e.toByte else s.st.warn
      first := if s.st.first = 0 then e.toByte else s.st.first
      gerr := if s.st.gerr = BitVec.allOnes 32 then s.st.gerr else s.st.gerr + 1 }

/-! ## When a frame can be decoded -/

/-- `DECODE_FRAME` passes its checks 1 to 3 (R442). -/
structure FrameReady (s : State) : Prop where
  valid : s.hdr.valid = true
  cursor : s.br.pos = s.hdr.start + 32
  layer : s.frm.layer ≠ 0
  session : s.sessionAgrees = true
  inside : s.bodyEnd < 2 ^ 64
  body : s.bodyEnd ≤ 8 * s.src.bytes.length

/-- The state in which the layer decoder starts: the header consumed, the session open, the body in `FB`, the slot made,
the bound sink cleared (R441). -/
def frameStart (s : State) : State :=
  sinkClear (makeSlot s.frm.layer.toNat
    (takeBody (openSession ((startCommand s).withHdr { s.hdr with valid := false }))))

/-- The reservoir that a Layer III frame meets: its slot starts with an empty one (R44, R446). -/
def State.reservoir (s : State) : List Byte := if s.made.l3 then s.res else []

/-- The frame's own main-data area within its body (R331). -/
def State.mainData (s : State) : List Byte := s.bodyBytes.drop s.mdOff

/-- `main_data_begin` of the frame at the cursor (R140, R141, R322). -/
def State.mainDataBegin (s : State) : Nat :=
  bitsAt s.bodyBytes (if s.hdr.fields.protection = 0 then 16 else 0) (if s.frm.version = 1 then 9 else 8)

/-- No word of the codebook is the beginning of another (R364). -/
def PrefixFree {α : Type} (book : List (CodeWord α)) : Prop :=
  ∀ e ∈ book, ∀ f ∈ book, e.hlen ≤ f.hlen → f.hcod / 2 ^ (f.hlen - e.hlen) = e.hcod → e = f

/-! ## What headers and selectors do -/

/-- A sync pattern starts at byte p (R132, R186). -/
def PatternAt (s : State) (p : Nat) : Prop :=
  p + 1 < s.src.bytes.length ∧ s.src.bytes.getD p 0 = 0xFF ∧
    s.src.bytes.getD (p + 1) 0 &&& syncMask s.cfg.syncBits = syncMask s.cfg.syncBits

/-- The result code of a header word: the first test of R201 that fails, on the bits of the word. -/
def headerVerdict (sb : SyncBits) (w : HeaderWord) : Code :=
  if (match sb with
      | .eleven => w.extractLsb' 21 11 != 0x7FF
      | .twelve => w.extractLsb' 20 12 != 0xFFF) then .invalidSync
  else if w.extractLsb' 19 2 = 1 then .reservedValue
  else if w.extractLsb' 17 2 = 0 then .reservedValue
  else if w.extractLsb' 12 4 = 15 then .reservedValue
  else if w.extractLsb' 10 2 = 3 then .reservedValue
  else if w.extractLsb' 12 4 = 0 then .freeFormatUnsupported
  else .ok

/-- The lines of channel c in u are those of s but for lines i, i + 1, … which are `vs` (as 16-bit values). -/
def LinesStored (vs : List Int) (s u : State) : Prop :=
  (∀ k < 576, rd (rd u.tr.is s.seqCh) k =
    if s.seq.line ≤ k ∧ k < s.seq.line + vs.length then BitVec.ofInt 16 (vs.getD (k - s.seq.line) 0)
    else rd (rd s.tr.is s.seqCh) k) ∧
  ∀ c < 2, c ≠ s.seqCh → rd u.tr.is c = rd s.tr.is c

/-- The granule-channel ends at its next line: lines from there on are 0, those before stay, `NZ` is one more than the
index of the last non-zero line, the cursor stands at the end (R361, R372, R374). -/
def LinesFinished (s u : State) : Prop :=
  (∀ k < 576, rd (rd u.tr.is s.seqCh) k = if k < s.seq.line then rd (rd s.tr.is s.seqCh) k else 0) ∧
  (∀ k < 576, (rd u.tr.nz s.seqCh).toNat ≤ k → rd (rd u.tr.is s.seqCh) k = 0) ∧
  (rd u.tr.nz s.seqCh ≠ 0 → rd (rd u.tr.is s.seqCh) ((rd u.tr.nz s.seqCh).toNat - 1) ≠ 0) ∧
  (∀ c < 2, c ≠ s.seqCh → rd u.tr.is c = rd s.tr.is c ∧ rd u.tr.nz c = rd s.tr.nz c) ∧
  u.tr.md = { s.tr.md with pos := BitVec.ofNat 32 s.seq.lim } ∧ u.seq = { s.seq with done := true }

/-! ## Layer I and II bodies: where each field stands -/

/-- The allocation section of a body (R146, R147): from bit `pos` on, a code per channel below `bound`, from there on one
that the channels share; subband sb has a code of `nbal[sb]` bits, and from the end of the list on none. -/
structure BodyPlan where
  bytes : List Byte
  pos : Nat
  nch : Nat
  bound : Nat
  nbal : List Nat

/-- The number of codes, the subband of code j, and the code that channel ch has in subband sb. -/
def BodyPlan.codes (b : BodyPlan) : Nat := b.nch * b.bound + (b.nbal.length - b.bound)
def BodyPlan.subband (b : BodyPlan) (j : Nat) : Nat :=
  if j < b.nch * b.bound then j / b.nch else b.bound + (j - b.nch * b.bound)
def BodyPlan.index (b : BodyPlan) (ch sb : Nat) : Nat :=
  if sb < b.bound then b.nch * sb + ch else b.nch * b.bound + (sb - b.bound)

/-- Where code j stands, its value, and the allocation of a channel in a subband (R272, R296). -/
def BodyPlan.codePos (b : BodyPlan) (j : Nat) : Nat :=
  b.pos + ((List.range j).map fun i => b.nbal.getD (b.subband i) 0).sum
def BodyPlan.code (b : BodyPlan) (j : Nat) : Nat := bitsAt b.bytes (b.codePos j) (b.nbal.getD (b.subband j) 0)
def BodyPlan.alloc (b : BodyPlan) (ch sb : Nat) : Nat := if sb < b.nbal.length then b.code (b.index ch sb) else 0

/-- The allocated pairs before the n-th, subband by subband, channel by channel; pair n is channel `n % nch` of subband
`n / nch`. -/
def BodyPlan.allocated (b : BodyPlan) (n : Nat) : Bool := b.alloc (n % b.nch) (n / b.nch) != 0
def BodyPlan.before (b : BodyPlan) (n : Nat) : List Nat := (List.range n).filter b.allocated

/-- Where the allocation ends. -/
def BodyPlan.codesEnd (b : BodyPlan) : Nat := b.codePos b.codes

/-- The bits of the body. -/
def BodyPlan.size (b : BodyPlan) : Nat := 8 * b.bytes.length

/-- The body in `FB` for Layer I and Layer II, from `FB.pos` on, after the check word (R137, R271, R291). -/
def layer1Plan (s : State) : BodyPlan where
  bytes := s.fb.bytes
  pos := s.fb.pos.toNat + (if s.hdr.fields.protection = 0 then 16 else 0)
  nch := s.nch
  bound := s.jointBound
  nbal := List.replicate 32 4
def layer2Plan (s : State) : BodyPlan where
  bytes := s.fb.bytes
  pos := s.fb.pos.toNat + (if s.hdr.fields.protection = 0 then 16 else 0)
  nch := s.nch
  bound := min s.jointBound s.allocTable2.2
  nbal := (List.range s.allocTable2.2).map fun sb => ((allocRow s.allocTable2.1 sb).nbal : Nat)

/-- The first jointly coded subband, off the bits of the header word: `4 + 4 * mode_ext` when `mode` is joint stereo, else
32 (R135). -/
def JointBound (s : State) (bound : Nat) : Prop :=
  bound = if s.hdr.word.extractLsb' 6 2 = 1 then 4 + 4 * (s.hdr.word.extractLsb' 4 2).toNat else 32

/-! Layer I: six bits for each allocated pair, then twelve sample sets (R273 to R276). -/

def BodyPlan.factorPos1 (b : BodyPlan) (n : Nat) : Nat := b.codesEnd + 6 * (b.before n).length
def BodyPlan.factor1 (b : BodyPlan) (n : Nat) : Nat := bitsAt b.bytes (b.factorPos1 n) 6
def BodyPlan.sampleBits1 (b : BodyPlan) (j : Nat) : Nat := if b.code j = 0 then 0 else b.code j + 1
def BodyPlan.offset1 (b : BodyPlan) (j : Nat) : Nat := ((List.range j).map b.sampleBits1).sum

/-- The bits of a sample set, where set i begins, and the bits of a sample. -/
def BodyPlan.setPos1 (b : BodyPlan) (i : Nat) : Nat := b.factorPos1 (32 * b.nch) + i * b.offset1 b.codes
def BodyPlan.sample1 (b : BodyPlan) (i j : Nat) : Nat :=
  bitsAt b.bytes (b.setPos1 i + b.offset1 j) (b.sampleBits1 j)

/-- No forbidden code, no forbidden index, and room for the samples (R272 to R274). -/
structure BodyPlan.Fits1 (b : BodyPlan) : Prop where
  codes : ∀ j < b.codes, b.code j ≠ 15
  factors : ∀ n < 32 * b.nch, b.allocated n = true → b.factor1 n ≠ 63
  room : b.setPos1 12 ≤ b.size

/-- `(2^nb / (2^nb - 1)) * (frac + 2^(1-nb)) * SCALE[scf]` with `frac = (r - 2^(nb-1)) / 2^(nb-1)` (R275). -/
def dequantised1 (num : NumSystem) (r nb scf : Nat) : Sample :=
  Num.mul num
    (Num.mul num (Num.div num (Num.ofNat num (2 ^ nb)) (Num.ofNat num (2 ^ nb - 1)))
      (Num.add num (Num.dyadic num ((r : Int) - 2 ^ (nb - 1)) (1 - nb)) (Num.dyadic num 1 (1 - nb))))
    (scale num scf)

/-! Layer II: two bits for each allocated pair, one to three indexes for each, then twelve sets of triples (R297 to
R304). -/

def BodyPlan.select (b : BodyPlan) (n : Nat) : Nat := bitsAt b.bytes (b.codesEnd + 2 * (b.before n).length) 2
def BodyPlan.sent (b : BodyPlan) (n : Nat) : Nat := [3, 2, 1, 2].getD (b.select n) 0
def BodyPlan.factorPos2 (b : BodyPlan) (n : Nat) : Nat :=
  b.codesEnd + 2 * (b.before (b.nch * b.nbal.length)).length + 6 * ((b.before n).map b.sent).sum
def BodyPlan.index2 (b : BodyPlan) (n i : Nat) : Nat := bitsAt b.bytes (b.factorPos2 n + 6 * i) 6

/-- The index that part p of the frame takes of those sent for pair n (R298). -/
def BodyPlan.factor2 (b : BodyPlan) (n p : Nat) : Nat :=
  b.index2 n (([[0, 1, 2], [0, 0, 1], [0, 0, 0], [0, 1, 1]].getD (b.select n) []).getD p 0)

/-- The class of code j, the bits of its triple, where set gr begins, and where its triple stands. -/
def BodyPlan.class2 (b : BodyPlan) (c : Config) (t : List AllocRow) (j : Nat) : QuantClass :=
  rd c.l2Quant ((allocRow t (b.subband j)).classes.getD (b.code j - 1) 0)
def BodyPlan.tripleBits2 (b : BodyPlan) (c : Config) (t : List AllocRow) (j : Nat) : Nat :=
  if b.code j = 0 then 0 else (b.class2 c t j).group.getD (3 * (b.class2 c t j).bits)
def BodyPlan.offset2 (b : BodyPlan) (c : Config) (t : List AllocRow) (j : Nat) : Nat :=
  ((List.range j).map (b.tripleBits2 c t)).sum
def BodyPlan.setPos2 (b : BodyPlan) (c : Config) (t : List AllocRow) (gr : Nat) : Nat :=
  b.factorPos2 (b.nch * b.nbal.length) + gr * b.offset2 c t b.codes

/-- Value q of the triple of code j in set gr (R301, R302). -/
def BodyPlan.value2 (b : BodyPlan) (c : Config) (t : List AllocRow) (gr j q : Nat) : Nat :=
  let k := b.class2 c t j
  let p := b.setPos2 c t gr + b.offset2 c t j
  match k.group with
  | some cw => bitsAt b.bytes p cw / k.steps ^ q % k.steps
  | none => bitsAt b.bytes (p + q * k.bits) k.bits

/-- No forbidden index, and room for the triples (R298, R299). -/
structure BodyPlan.Fits2 (b : BodyPlan) (c : Config) (t : List AllocRow) : Prop where
  factors : ∀ n < b.nch * b.nbal.length, b.allocated n = true → ∀ i < b.sent n, b.index2 n i ≠ 63
  room : b.setPos2 c t 12 ≤ b.size

/-- `C * (frac + D) * SCALE[scf]` with `C = 2^n / L` and `frac = (v - 2^(n-1)) / 2^(n-1)` (R300, R303). -/
def dequantised2 (num : NumSystem) (k : QuantClass) (v scf : Nat) : Sample :=
  Num.mul num
    (Num.mul num (Num.packRatio num false (2 ^ k.bits) k.steps 0)
      (Num.add num (Num.dyadic num ((v : Int) - 2 ^ (k.bits - 1)) (1 - k.bits)) (Num.dyadic num 1 (-(k.dExp : Int)))))
    (scale num scf)

/-! ## Layer III: side information and scale factors -/

/-- The granule record at bit p (R142, R143); `v1` says the version is MPEG-1. -/
structure GranuleAt (bytes : List Byte) (p : Nat) (v1 : Bool) (g : Granule) : Prop where
  part23Length : g.part23Length.toNat = bitsAt bytes p 12
  bigValues : g.bigValues.toNat = bitsAt bytes (p + 12) 9
  globalGain : g.globalGain.toNat = bitsAt bytes (p + 21) 8
  scalefacCompress : g.scalefacCompress.toNat = bitsAt bytes (p + 29) (if v1 then 4 else 9)
  windowSwitching : g.windowSwitching.toNat = bitsAt bytes (p + if v1 then 33 else 38) 1
  switched : g.windowSwitching = 1 →
    ∀ w, w = p + (if v1 then 34 else 39) →
      g.blockType.toNat = bitsAt bytes w 2 ∧ g.mixedBlock.toNat = bitsAt bytes (w + 2) 1 ∧
      (rd g.tableSelect 0).toNat = bitsAt bytes (w + 3) 5 ∧ (rd g.tableSelect 1).toNat = bitsAt bytes (w + 8) 5 ∧
      rd g.tableSelect 2 = 0 ∧ (∀ i < 3, (rd g.subblockGain i).toNat = bitsAt bytes (w + 13 + 3 * i) 3) ∧
      g.region0Count = (if g.blockType = 2 ∧ g.mixedBlock = 0 then 8 else 7) ∧
      g.region1Count.toNat = 20 - g.region0Count.toNat
  unswitched : g.windowSwitching = 0 →
    ∀ w, w = p + (if v1 then 34 else 39) →
      g.blockType = 0 ∧ g.mixedBlock = 0 ∧ (∀ i < 3, rd g.subblockGain i = 0) ∧
      (∀ i < 3, (rd g.tableSelect i).toNat = bitsAt bytes (w + 5 * i) 5) ∧
      g.region0Count.toNat = bitsAt bytes (w + 15) 4 ∧ g.region1Count.toNat = bitsAt bytes (w + 19) 3
  preflag : g.preflag.toNat = if v1 then bitsAt bytes (p + 56) 1 else 0
  scalefacScale : g.scalefacScale.toNat = bitsAt bytes (p + if v1 then 57 else 61) 1
  count1TableSelect : g.count1TableSelect.toNat = bitsAt bytes (p + if v1 then 58 else 62) 1

/-- Field bits of the main-data window as a scale factor. -/
def factorAt (s : State) (p n : Nat) : BitVec 5 := BitVec.ofNat 5 (bitsAt s.tr.md.bytes p n)

/-- Only scale factors, the illegal positions, the cursor of the window and the side information may differ; the other
channel's factors do not. -/
structure FactorFrame (ch : Nat) (s t : State) : Prop where
  frame : t = { s with tr := { s.tr with scf := t.tr.scf, ill := t.tr.ill, md := t.tr.md, si := t.tr.si } }
  other : ∀ c < 2, c ≠ ch → rd t.tr.scf c = rd s.tr.scf c
  md : t.tr.md = { s.tr.md with pos := t.tr.md.pos }

/-! ## Layer III: code words -/

/-- One value of a pair from its place on: linbits, the value, its sign (R365); with the place after it. -/
def codedValue (linbits : Nat) (md : MainData) (x p : Nat) : Int × Nat :=
  let e := if 0 < linbits ∧ x = 15 then linbits else 0
  let v := x + bitsAt md.bytes p e
  if v = 0 then (0, p + e) else (if bitsAt md.bytes (p + e) 1 = 1 then -(v : Int) else v, p + e + 1)

/-- One of v, w, x, y from its place on (R369). -/
def codedSign (md : MainData) (bit p : Nat) : Int × Nat :=
  if bit = 0 then (0, p) else (if bitsAt md.bytes p 1 = 1 then -1 else 1, p + 1)

/-- `(r1, r2)` of a granule-channel: where its regions 0 and 1 end (R363). -/
def RegionEnds (c : Config) (rate : Nat) (g : Granule) (r1 r2 : Nat) : Prop :=
  r1 = min (if g.blockType = 2 then 3 * (sfbShort c rate).getD 3 0 else (sfbLong c rate).getD (g.region0Count.toNat + 1) 0)
    (2 * g.bigValues.toNat) ∧
  r2 = min (if g.blockType = 2 then 576
      else (sfbLong c rate).getD (min (g.region0Count.toNat + g.region1Count.toNat + 2) 22) 0)
    (2 * g.bigValues.toNat)

/-! ## Layer III: spectral lines -/

/-- The boundaries of a table rise. -/
def Ascending (b : List Nat) : Prop := b.Pairwise (· < ·)

/-- Line k is in band sfb of a long table (R343). -/
def InLong (c : Config) (rate sfb k : Nat) : Prop :=
  sfb < 22 ∧ (sfbLong c rate).getD sfb 0 ≤ k ∧ k < (sfbLong c rate).getD (sfb + 1) 0

/-- Line k belongs to window w of band sfb of a short table: `3*s + w*wd + f` with f < wd (R391). -/
def InShort (c : Config) (rate sfb w k : Nat) : Prop :=
  sfb < 13 ∧ w < 3 ∧
    3 * (sfbShort c rate).getD sfb 0 + w * ((sfbShort c rate).getD (sfb + 1) 0 - (sfbShort c rate).getD sfb 0) ≤ k ∧
    k < 3 * (sfbShort c rate).getD sfb 0 + (w + 1) * ((sfbShort c rate).getD (sfb + 1) 0 - (sfbShort c rate).getD sfb 0)

/-- `pow(|v|, 4.0 / 3.0) * pow(2.0, e4 / 4)` with the sign of v (R392). -/
def powerLaw (num : NumSystem) (v e4 : Int) : Sample :=
  let m :=
    Num.mul num (Num.pow num (Num.ofNat num v.natAbs) (Num.div num (Num.ofNat num 4) (Num.ofNat num 3)))
      (Num.pow num Num.two (Num.dyadic num e4 (-2)))
  if v = 0 then Num.zero else if 0 < v then m else Num.neg m

/-- The two channels of a line after `Stereo`, with its intensity position and the illegal one (R400, R402, R406 to
R408). -/
def stereoPair (s : State) (gr : Nat) (pos : Option (Nat × Nat)) (a b : Sample) : Sample × Sample :=
  let num := s.cfg.num
  let rest :=
    if s.msBit then
      (Num.div num (Num.add num a b) (Num.sqrt num Num.two), Num.div num (Num.sub num a b) (Num.sqrt num Num.two))
    else (a, b)
  match pos with
  | none => rest
  | some (p, ill) =>
    if s.frm.version = 1 then
      if p < 6 then
        let r := Num.tan num (Num.div num (Num.mul num (Num.ofNat num p) (Num.pi num)) (Num.ofNat num 12))
        (Num.div num (Num.mul num a r) (Num.add num Num.one r), Num.div num a (Num.add num Num.one r))
      else if p = 6 then (a, Num.zero)
      else rest
    else if p = ill then rest
    else
      let i0 :=
        Num.pow num Num.two (Num.dyadic num (-1) (if (s.granule gr 1).scalefacCompress.getLsbD 0 then -1 else -2))
      if p = 0 then (Num.mul num a Num.one, Num.mul num a Num.one)
      else if p % 2 = 1 then (Num.mul num a (Num.pow num i0 (Num.ofNat num ((p + 1) / 2))), Num.mul num a Num.one)
      else (Num.mul num a Num.one, Num.mul num a (Num.pow num i0 (Num.ofNat num (p / 2))))

/-- Line k of both channels of t is what `Stereo` makes of it in s. -/
def StereoLine (s t : State) (gr : Nat) (pos : Option (Nat × Nat)) (k : Nat) : Prop :=
  (rd (rd t.tr.xr 0) k, rd (rd t.tr.xr 1) k) = stereoPair s gr pos (rd (rd s.tr.xr 0) k) (rd (rd s.tr.xr 1) k)

/-- B is the smallest long band that starts at or above nz, 22 if none below (R403). -/
def LongBoundary (s : State) (nz b : Nat) : Prop :=
  b ≤ 22 ∧ nz ≤ (sfbLong s.cfg s.frm.rate.toNat).getD b 0 ∧ ∀ i < b, (sfbLong s.cfg s.frm.rate.toNat).getD i 0 < nz

/-- `B_w` from `first` on: window w of the right channel is zero from that band on, and not from the one before
(R404, R405). -/
def ShortBoundary (s : State) (first w b : Nat) : Prop :=
  first ≤ b ∧ b ≤ 13 ∧
    (∀ sfb k, b ≤ sfb → InShort s.cfg s.frm.rate.toNat sfb w k → rd (rd s.tr.is 1) k = 0) ∧
    (first < b → ∃ k, InShort s.cfg s.frm.rate.toNat (b - 1) w k ∧ rd (rd s.tr.is 1) k ≠ 0)

/-- Position and illegal position of a short band. -/
def shortFactors (s : State) (w sfb : Nat) : Nat × Nat :=
  ((rd (rd (rd s.tr.scf 1).s w) sfb).toNat, (rd (rd s.tr.ill.s w) sfb).toNat)

/-- Position and illegal position of a long band; what the right channel did not transmit is 0 (R410). -/
def longFactors (s : State) (gr sfb : Nat) : Nat × Nat :=
  (if blockKind (s.granule gr 1) = .short ∨
      (blockKind (s.granule gr 1) = .mixed ∧ (if s.frm.version = 1 then 7 else 5) < sfb) then 0
    else (rd (rd s.tr.scf 1).l sfb).toNat,
    (rd s.tr.ill.l sfb).toNat)

/-! ## Layer III: transforms and the feeding of the filters -/

/-- `CS[i]` and `CA[i]` (R419); `CI[i]` is printed in units of 0.0001. -/
def rotation (num : NumSystem) (i : Nat) : Sample × Sample :=
  let ci := Num.packRatio num true ([6000, 5350, 3300, 1850, 950, 410, 142, 37].getD i 0) 10000 0
  let norm := Num.sqrt num (Num.add num Num.one (Num.mul num ci ci))
  (Num.div num Num.one norm, Num.div num ci norm)

/-- sin(PI/d * (i + 0.5)) and cos(PI / d * a * b). -/
def sineAt (num : NumSystem) (d i : Nat) : Sample :=
  Num.sin num
    (Num.mul num (Num.div num (Num.pi num) (Num.ofNat num d)) (Num.add num (Num.ofNat num i) Num.half))
def cosineAt (num : NumSystem) (d a b : Nat) : Sample :=
  Num.cos num
    (Num.mul num (Num.mul num (Num.div num (Num.pi num) (Num.ofNat num d)) (Num.ofNat num a)) (Num.ofNat num b))

/-- `WIN[bt][i]` for bt 0, 1 and 3 (R424). -/
def windowAt (num : NumSystem) (bt i : Nat) : Sample :=
  if bt = 1 ∧ 30 ≤ i then Num.zero
  else if bt = 1 ∧ 24 ≤ i then sineAt num 12 (i - 18)
  else if bt = 1 ∧ 18 ≤ i then Num.one
  else if bt = 3 ∧ i < 6 then Num.zero
  else if bt = 3 ∧ i < 12 then sineAt num 12 (i - 6)
  else if bt = 3 ∧ i < 18 then Num.one
  else sineAt num 36 i

/-- `out[i]` of a subband with the input `x 0` .. `x 17` and the block type bt (R422, R423, R425, R426): a long transform, or
the short ones of windows w = 0, 1, 2 at 6 + 6*w, added in this order. -/
def transformValue (num : NumSystem) (bt : Nat) (x : Nat → Sample) (i : Nat) : Sample :=
  let short (w j : Nat) : Sample :=
    Num.mul num (sum num 6 fun k => Num.mul num (x (3 * k + w)) (cosineAt num 24 (2 * j + 7) (2 * k + 1))) (sineAt num 12 j)
  if bt ≠ 2 then
    Num.mul num (sum num 18 fun k => Num.mul num (x k) (cosineAt num 72 (2 * i + 19) (2 * k + 1))) (windowAt num bt i)
  else if i < 6 ∨ 30 ≤ i then Num.zero
  else if i < 12 then Num.add num Num.zero (short 0 (i - 6))
  else if i < 18 then Num.add num (Num.add num Num.zero (short 0 (i - 6))) (short 1 (i - 12))
  else if i < 24 then Num.add num (Num.add num Num.zero (short 1 (i - 12))) (short 2 (i - 18))
  else Num.add num Num.zero (short 2 (i - 18))

/-- t is s after one synthesis call of channel ch with `SBS[ch][sb]` = `x sb`; `EQW` may act at the boundary before it
(R102). -/
def FedOnce (ch : Nat) (x : Nat → Sample) (s t : State) : Prop :=
  ∃ v : Vector Sample 32, (∀ sb < 32, rd v sb = x sb) ∧
    t = synthCall ch (eqBoundary { s with tr := { s.tr with sbs := wr s.tr.sbs ch v } })

/-- t is s after 18 synthesis calls of channel ch, call i with `SBS[ch][sb]` = `HY[ch][sb][i]` (R429). -/
def FedBy (ch : Nat) (s t : State) : Prop :=
  ∃ u : Nat → State, u 0 = s ∧ u 18 = t ∧
    ∀ i < 18, FedOnce ch (fun sb => rd (rd (rd (u i).tr.hy ch) sb) i) (u i) (u (i + 1))

/-- t is s after the n sample sets in order, in each set channel 0 before channel 1, one synthesis call each with
`SBS[ch][sb]` = `GRID[ch][sb][i]`, the `GRID` that stands in s (R277, R305). -/
def FedGrid (n nch : Nat) (s t : State) : Prop :=
  ∃ u : Nat → State, u 0 = s ∧ u (n * nch) = t ∧
    ∀ i < n, ∀ ch < nch,
      FedOnce ch (fun sb => rd (rd (rd s.tr.grid ch) sb) i) (u (nch * i + ch)) (u (nch * i + ch + 1))

end Sys2Proof.Machine
end

