-- ==== Sys2Proof/Certificates/Slice0/Obligations.lean ====
section
/-! DEFINITION. The statements for the provers. A frame is written as an equation: `t = { s with br := t.br, … }` says that t
differs from s at most in the fields it names. -/

open Sys2Proof Sys2Proof.Machine

/-! ## Encodings -/

/-- Words written out from R121, R122, R131, R133, R136 stand for their instructions. The last four are selectors: how the
fields of R142 and R155 are packed into one byte is the model's own choice (log entry 23). -/
def Obligations.WordsOfTheTableDecode : Prop :=
  decodeTableWord 64 0x0100000000000000 = some .reset ∧
  decodeTableWord 64 0x1011000000000000 = some (.readbits 17) ∧
  decodeTableWord 64 0x30030000C0200000 = some (.eqSetband 3 0xC0200000) ∧
  decodeTableWord 64 0x4000000000000002 = some (.setOutput 2) ∧
  decodeTableWord 64 0x5016000000000005 = some (.getParam 22 5) ∧
  decodeTableWord 64 0x1000000100000000 = some (.illegalCmd 0x1000000100000000) ∧
  decodeTableWord 32 0xFFFB9000 =
    some (.frameL3 ⟨0x7FF, 3, 1, 1, 9, 0, 0, 0, 0, 0, 0, 0, 0⟩) ∧
  decodeTableWord 32 0xFFF39E64 =
    some (.hdrRsvRate ⟨0x7FF, 2, 1, 1, 9, 3, 1, 0, 1, 2, 0, 1, 0⟩) ∧
  decodeTableWord 8 0x18 = some .tsel24 ∧ decodeTableWord 8 0x41 = some .count1B ∧
  decodeTableWord 8 0x8D = some .blkMixed ∧ decodeTableWord 8 0x8F = some (.blkStop 1)

/-- The words of every well-formed instruction decode to it, with every operand at every value. -/
def Obligations.EncodedInstructionDecodes : Prop :=
  ∀ i : Instr, wellFormed i = true → decode .eleven (encode i) = i

/-- Every word, with either width of the sync pattern, is the word of the instruction it decodes to: decoding drops no
bit. -/
def Obligations.DecodedWordEncodes : Prop :=
  ∀ (sb : SyncBits) (f : Fetched), encode (decode sb f) = f

/-! ## The step -/

/-- A step performs the boundary of `EQW` and then executes what the host requested: a command word, a pseudo-instruction
or a selector is decoded and executed in the state without the request; without a request nothing more happens. When the
host positions the byte source (R104, R523; the model's form of it: log entry 9), the new bytes replace the source at once
while nothing has been pulled and the end of data has not been met, and else wait for the next reset of the cursor; nothing
else changes. That requests stand in a list (log entry 10), that `EQW` acts at the boundary before a request by a schedule (log entry 11),
that a selector may be requested alone (log entry 22) and that a pseudo-instruction is one step (log entry 25) are the
model's own choices. -/
def Obligations.StepRunsDecodedInstruction : Prop :=
  ∀ (s : State) (rest : List HostOp),
    (∀ w, s.cp.ops = .command w :: rest →
      step s = exec (decode s.cfg.syncBits (.command w)) (dequeue rest (eqBoundary s))) ∧
    (∀ p, s.cp.ops = .pseudo p :: rest →
      step s = exec (decode s.cfg.syncBits (.pseudo p)) (dequeue rest (eqBoundary s))) ∧
    (∀ x, s.cp.ops = .selector x :: rest →
      step s = exec (decode s.cfg.syncBits (.selector x)) (dequeue rest (eqBoundary s))) ∧
    (∀ (bytes : List Byte) (t : State), s.cp.ops = .present bytes :: rest → t = dequeue rest (eqBoundary s) →
      (s.br.pulled = 0 ∧ s.br.eod = false → step s = .next { t with src := { bytes := bytes, upcoming := none } }) ∧
      (¬(s.br.pulled = 0 ∧ s.br.eod = false) → step s = .next { t with src := { s.src with upcoming := some bytes } })) ∧
    (s.cp.ops = [] → step s = .next (eqBoundary s))

/-- A frame is executed by the row of the header word at the bit cursor: the word is read, the cursor moves past it, and
the decoded row runs. Without 32 bits the fetch ends with `StreamExhausted`, the cursor in place, `HDR` and `FRM`
cleared (R2, R201). -/
def Obligations.StepRunsFrameAtCursor : Prop :=
  ∀ (s : State) (rest : List HostOp), BrInv s → s.cp.ops = .frame :: rest → s.br.pos.toNat + 32 < 2 ^ 64 →
    (s.br.pos.toNat + 32 ≤ 8 * s.src.bytes.length →
      ∃ t, step s =
          exec (decode s.cfg.syncBits (.header (BitVec.ofNat 32 (bitsAt s.src.bytes s.br.pos.toNat 32)))) t ∧
        t.br.pos = s.br.pos + 32 ∧ BrInv t ∧ t.hdr = { s.hdr with valid := false } ∧
        t = { startCommand (dequeue rest (eqBoundary s)) with br := t.br, hdr := t.hdr, freeCtr := t.freeCtr }) ∧
    (8 * s.src.bytes.length < s.br.pos.toNat + 32 →
      ∃ t, step s = .next t ∧ Ended .streamExhausted 0 (dequeue rest (eqBoundary s)) t ∧ t.br.pos = s.br.pos ∧
        t.hdr = { word := 0, start := 0, valid := false } ∧ t.frm = State.reset.frm)

/-- Every state has a next state (R536). -/
def Obligations.StepAlwaysAnswers : Prop := ∀ s : State, ∃ t, step s = .next t

/-- Every step keeps the invariant of the machine: the cursor is covered by pulled bytes, a held header is an accepted
one and determines `FRM`, equalizer values lie in [-1.0, 1.0], the session has one or two channels, the reservoir has at
most 511 bytes, the result registers hold legal codes, the null sink is empty (R22 to R44, R84, R217, R471). -/
def Obligations.StepKeepsInvariant : Prop :=
  ∀ s t : State, Inv s → step s = .next t → Inv t

/-- The machine at power-on satisfies the invariant, whatever its parameters are; its registers have the values of R47, the
coefficients are 1.0. -/
def Obligations.InvariantHoldsAtReset : Prop :=
  (∀ c : Config, Inv { State.reset with cfg := c }) ∧
  State.reset.br = { pulled := 0, eod := false, pos := 0 } ∧
  State.reset.hdr = { word := 0, start := 0, valid := false } ∧
  State.reset.frm =
    { version := 0, layer := 0, bitrate := 0, rate := 0, channels := 0, len := 0, spf := 0, durUs := 0,
      sideBytes := 0, vbr := false } ∧
  State.reset.ses = { init := false, channels := 0, rate := 0, prevBitrate := 0, vbr := false } ∧
  State.reset.st = { code := 0, warn := 0, first := 0, value := 0, gerr := 0 } ∧
  State.reset.outSink = 0 ∧ State.reset.fb = { bytes := [], pos := 0 } ∧ State.reset.res = [] ∧
  State.reset.made = { l1 := false, l2 := false, l3 := false } ∧
  (∀ i < 32, rd State.reset.eq i = Machine.Num.zero) ∧
  ∀ ch < 2, (∀ i < 32, rd (rd State.reset.sf ch).eqf i = Machine.Num.one) ∧
    (∀ i < 1024, rd (rd State.reset.sf ch).v i = Machine.Num.zero) ∧
    ∀ sb < 32, ∀ i < 18, rd (rd (rd State.reset.ov ch) sb) i = Machine.Num.zero

/-! ## Bit reader -/

/-- `READBITS n` (R84, R85, R181): with n bits left the value is those bits, first bit most significant, and the cursor moves
by n; bytes are pulled as far as needed and at most `BR_PREFETCH` further. With fewer than n bits left:
`StreamExhausted`, the cursor in place, everything pulled, the end of data noted. -/
def Obligations.ReadbitsReturnsTheNextBits : Prop :=
  (∀ (n : BitVec 8) (s : State), BrInv s → 1 ≤ n.toNat → n.toNat ≤ 32 →
    s.br.pos.toNat + n.toNat < 2 ^ 64 → s.br.pos.toNat + n.toNat ≤ 8 * s.src.bytes.length →
    ∃ t, exec (.readbits n) s = .next t ∧
      Ended .ok (BitVec.ofNat 32 (bitsAt s.src.bytes s.br.pos.toNat n.toNat)) s t ∧
      t.br.pos.toNat = s.br.pos.toNat + n.toNat ∧
      bytesFor (s.br.pos.toNat + n.toNat) ≤ t.br.pulled.toNat ∧
      t.br.pulled.toNat ≤
        max s.br.pulled.toNat
          (min (bytesFor (s.br.pos.toNat + n.toNat) + s.cfg.brPrefetch) s.src.bytes.length) ∧
      t = { s with br := t.br, st := t.st, cp := t.cp, freeCtr := t.freeCtr }) ∧
  ∀ (n : BitVec 8) (s : State), BrInv s → 1 ≤ n.toNat → n.toNat ≤ 32 →
    s.br.pos.toNat + n.toNat < 2 ^ 64 → 8 * s.src.bytes.length < s.br.pos.toNat + n.toNat →
    ∃ t, exec (.readbits n) s = .next t ∧ Ended .streamExhausted 0 s t ∧
      t.br.pos = s.br.pos ∧ t.br.eod = true ∧ t.br.pulled.toNat = s.src.bytes.length ∧
      t = { s with br := t.br, st := t.st, cp := t.cp, freeCtr := t.freeCtr }

/-- R182: `READBIT` is `READBITS 1`, returns 0 or 1, and is no command word's decoding. -/
def Obligations.ReadbitIsReadbitsOne : Prop :=
  (∀ s : State, ∃ t, exec .readbit s = .next t ∧ exec (.readbits 1) s = .next t ∧
    (t.st.value = 0 ∨ t.st.value = 1)) ∧
  ∀ w : CmdWord, decodeCommand w ≠ .readbit

/-- R83: one read of a + b bits gives the bits of a read of a and a read of b. -/
def Obligations.SplitReadsConcatenate : Prop :=
  ∀ (a b : Nat) (s t u : State), 1 ≤ a → 1 ≤ b → a + b ≤ 32 →
    exec (.readbits (BitVec.ofNat 8 a)) s = .next t → t.st.code = 0 →
    exec (.readbits (BitVec.ofNat 8 b)) t = .next u → u.st.code = 0 →
    ∃ v, exec (.readbits (BitVec.ofNat 8 (a + b))) s = .next v ∧ v.st.code = 0 ∧
      v.st.value = t.st.value <<< b ||| u.st.value ∧ v.br.pos = u.br.pos

/-- `SYNC` (R186): the cursor goes to the first sync pattern at or after the cursor rounded up to a byte. Without a pattern:
`StreamExhausted`, and everything is consumed. -/
def Obligations.SyncFindsTheFirstPattern : Prop :=
  (∀ (p : Nat) (s : State), BrInv s → 8 * s.src.bytes.length < 2 ^ 64 →
    bytesFor s.br.pos.toNat ≤ p → PatternAt s p → (∀ q, bytesFor s.br.pos.toNat ≤ q → q < p → ¬ PatternAt s q) →
    ∃ t, exec .sync s = .next t ∧ Ended .ok 0 s t ∧ t.br.pos.toNat = 8 * p ∧ p + 2 ≤ t.br.pulled.toNat ∧
      (s.cfg.brPrefetch = 0 → t.br.pulled.toNat = max s.br.pulled.toNat (p + 2) ∧ t.br.eod = s.br.eod) ∧
      t = { s with br := t.br, st := t.st, cp := t.cp, freeCtr := t.freeCtr }) ∧
  ∀ s : State, BrInv s → 8 * s.src.bytes.length < 2 ^ 64 →
    (∀ q, bytesFor s.br.pos.toNat ≤ q → ¬ PatternAt s q) →
    ∃ t, exec .sync s = .next t ∧ Ended .streamExhausted 0 s t ∧
      t.br.pos.toNat = 8 * s.src.bytes.length ∧ t.br.pulled.toNat = s.src.bytes.length ∧ t.br.eod = true ∧
      t = { s with br := t.br, st := t.st, cp := t.cp, freeCtr := t.freeCtr }

/-! ## Headers -/

/-- `PARSE_HEADER` on an accepted header (R201, R215): `HDR` holds the word and its start, `FRM` what the word
determines, the cursor stands after it. Version, layer, bitrate, rate and channels are read off the bits of the word
(R204 to R208). -/
def Obligations.ParseHeaderAccepts : Prop :=
  ∀ (w : HeaderWord) (s : State), BrInv s → s.br.pos.toNat + 32 < 2 ^ 64 →
    s.br.pos.toNat + 32 ≤ 8 * s.src.bytes.length → w = BitVec.ofNat 32 (bitsAt s.src.bytes s.br.pos.toNat 32) →
    headerClass s.cfg.syncBits (splitHeader w) ∈ [.layer1, .layer2, .layer3] →
    ∃ t, exec .parseHeader s = .next t ∧ Ended .ok w s t ∧
      t.hdr = { word := w, start := s.br.pos, valid := true } ∧
      t.frm = headerFrm s.cfg.lsfHalveL2 (splitHeader w) t.frm.vbr ∧
      t.frm.version = (if w.extractLsb' 19 2 = 3 then 1 else if w.extractLsb' 19 2 = 2 then 2 else 3) ∧
      t.frm.layer = (if w.extractLsb' 17 2 = 3 then 1 else if w.extractLsb' 17 2 = 2 then 2 else 3) ∧
      t.frm.channels = (if w.extractLsb' 6 2 = 3 then 1 else 2) ∧
      t.frm.bitrate.toNat = 1000 *
        (if w.extractLsb' 19 2 = 3 then
          (if w.extractLsb' 17 2 = 3 then [0, 32, 64, 96, 128, 160, 192, 224, 256, 288, 320, 352, 384, 416, 448]
           else if w.extractLsb' 17 2 = 2 then [0, 32, 48, 56, 64, 80, 96, 112, 128, 160, 192, 224, 256, 320, 384]
           else [0, 32, 40, 48, 56, 64, 80, 96, 112, 128, 160, 192, 224, 256, 320])
         else if w.extractLsb' 17 2 = 3 then [0, 32, 48, 56, 64, 80, 96, 112, 128, 144, 160, 176, 192, 224, 256]
         else [0, 8, 16, 24, 32, 40, 48, 56, 64, 80, 96, 112, 128, 144, 160]).getD (w.extractLsb' 12 4).toNat 0 ∧
      t.frm.rate.toNat =
        (if w.extractLsb' 19 2 = 3 then [44100, 48000, 32000]
         else if w.extractLsb' 19 2 = 2 then [22050, 24000, 16000]
         else [11025, 12000, 8000]).getD (w.extractLsb' 10 2).toNat 0 ∧
      t.br.pos.toNat = s.br.pos.toNat + 32 ∧ t.br.pos.toNat ≤ 8 * t.br.pulled.toNat ∧
      t.ses = { s.ses with prevBitrate := t.frm.bitrate, vbr := t.frm.vbr } ∧
      t = { s with br := t.br, hdr := t.hdr, frm := t.frm, ses := t.ses, st := t.st, cp := t.cp, freeCtr := t.freeCtr }

/-- R209, R211: the samples per frame and the side-information bytes of every accepted header. -/
def Obligations.AcceptedHeaderSizes : Prop :=
  ∀ s t : State, exec .parseHeader s = .next t → t.st.code = 0 →
    t.frm.spf =
      (if t.frm.layer = 1 then 384 else if t.frm.layer = 2 then 1152 else if t.frm.version = 1 then 1152 else 576) ∧
    t.frm.sideBytes =
      (if t.frm.layer ≠ 3 then 0
       else if t.frm.version = 1 then (if t.frm.channels = 1 then 17 else 32)
       else if t.frm.channels = 1 then 9 else 17)

/-- R212, R214: the frame length in bytes and the duration in microseconds follow from the other registers. -/
def Obligations.AcceptedHeaderLength : Prop :=
  ∀ s t : State, exec .parseHeader s = .next t → t.st.code = 0 →
    t.frm.len.toNat =
      (if t.frm.layer = 1 then (12 * t.frm.bitrate.toNat / t.frm.rate.toNat + (t.hdr.word.extractLsb' 9 1).toNat) * 4
       else
        (if t.frm.version ≠ 1 ∧ (t.frm.layer = 3 ∨ s.cfg.lsfHalveL2 = true) then 72 else 144) *
            t.frm.bitrate.toNat / t.frm.rate.toNat + (t.hdr.word.extractLsb' 9 1).toNat) ∧
    t.frm.durUs.toNat = t.frm.spf.toNat * 1000000 / t.frm.rate.toNat ∧ t.frm.rate ≠ 0

/-- R213: the range of the frame length over all valid headers; both ends are attained. -/
def Obligations.FrameLengthRange : Prop :=
  (∀ (halve vbr : Bool) (h : HeaderFields), headerClass .eleven h ∈ [.layer1, .layer2, .layer3] →
    24 ≤ (headerFrm halve h vbr).len.toNat ∧
    (headerFrm halve h vbr).len.toNat ≤ (if halve then 1729 else 2881) ∧
    4 ≤ (headerFrm halve h vbr).len.toNat ∧ (headerFrm halve h vbr).len.toNat - 4 < 2 ^ 16) ∧
  ∀ halve vbr : Bool,
    (headerFrm halve (splitHeader 0xFFF31400) vbr).len = 24 ∧
    (headerFrm halve (splitHeader 0xFFF31400) vbr).version = 2 ∧
    (headerFrm halve (splitHeader 0xFFF31400) vbr).layer = 3 ∧
    (headerFrm halve (splitHeader 0xFFF31400) vbr).bitrate = 8000 ∧
    (headerFrm halve (splitHeader 0xFFF31400) vbr).rate = 24000 ∧
    headerClass .eleven (splitHeader 0xFFF31400) = .layer3 ∧
    (headerFrm true (splitHeader 0xFFFDEA00) vbr).len = 1729 ∧
    headerClass .eleven (splitHeader 0xFFFDEA00) = .layer2 ∧
    (headerFrm false (splitHeader 0xFFE5EA00) vbr).len = 2881 ∧
    headerClass .eleven (splitHeader 0xFFE5EA00) = .layer2

/-- R202 with the order of R201 and R480: a refused header leaves the cursor 8 bits after its start, too few bits leave it
in place; in every failure `HDR` and `FRM` are all 0. -/
def Obligations.ParseHeaderRefuses : Prop :=
  ∀ s : State, BrInv s → s.br.pos.toNat + 32 < 2 ^ 64 →
    (∀ w, s.br.pos.toNat + 32 ≤ 8 * s.src.bytes.length → w = BitVec.ofNat 32 (bitsAt s.src.bytes s.br.pos.toNat 32) →
      headerVerdict s.cfg.syncBits w ≠ .ok →
      ∃ t, exec .parseHeader s = .next t ∧ Ended (headerVerdict s.cfg.syncBits w) 0 s t ∧
        t.br.pos.toNat = s.br.pos.toNat + 8 ∧
        t.hdr = { word := 0, start := 0, valid := false } ∧ t.frm = State.reset.frm ∧
        t = { s with br := t.br, hdr := t.hdr, frm := t.frm, st := t.st, cp := t.cp, freeCtr := t.freeCtr }) ∧
    (8 * s.src.bytes.length < s.br.pos.toNat + 32 →
      ∃ t, exec .parseHeader s = .next t ∧ Ended .streamExhausted 0 s t ∧ t.br.pos = s.br.pos ∧
        t.hdr = { word := 0, start := 0, valid := false } ∧ t.frm = State.reset.frm ∧
        t = { s with br := t.br, hdr := t.hdr, frm := t.frm, st := t.st, cp := t.cp, freeCtr := t.freeCtr })

/-- R217: the variable-bitrate flag of the stream and of the frame; only the three reset commands clear it. -/
def Obligations.VbrFlagFollowsTheBitrates : Prop :=
  (∀ s t : State, exec .parseHeader s = .next t → t.st.code = 0 →
    (t.ses.vbr = true ↔
      s.ses.vbr = true ∨ (s.ses.prevBitrate ≠ 0 ∧ s.ses.prevBitrate ≠ t.frm.bitrate)) ∧
    t.frm.vbr = t.ses.vbr ∧ t.ses.prevBitrate = t.frm.bitrate) ∧
  (∀ s : State, ∀ i ∈ [Instr.restart, .reinit, .reset], ∃ t, exec i s = .next t ∧ t.ses.vbr = false) ∧
  ∀ (i : Instr) (s t : State), i ∉ [Instr.restart, .reinit, .reset] → exec i s = .next t → s.ses.vbr = true →
    t.ses.vbr = true

/-! ## Frames -/

/-- A frame row accepts its header as `PARSE_HEADER` does and then is `DECODE_FRAME` (R2, R133). The refused header rows
(R136, R201, R202): the header word was fetched, so the cursor is 32 bits after its start; the row ends with its code, the
cursor 8 bits after the start, `HDR` and `FRM` cleared. That a level 2 instruction ends with one result word is the
model's choice (log entry 21). -/
def Obligations.HeaderRowsEnd : Prop :=
  (∀ (h : HeaderFields) (s : State),
    ∀ row ∈ [(HeaderClass.layer1, Instr.frameL1 h), (.layer2, .frameL2 h), (.layer3, .frameL3 h)],
      headerClass s.cfg.syncBits h = row.1 →
      ∃ t, exec row.2 s = .next t ∧ exec .decodeFrame (acceptHeader h (s.br.pos - 32) s) = .next t) ∧
  ∀ (h : HeaderFields) (s : State), 32 ≤ s.br.pos.toNat →
    ∀ row ∈ [(Instr.hdrNoSync h, Code.invalidSync), (.hdrRsvVersion h, .reservedValue), (.hdrRsvLayer h, .reservedValue),
        (.hdrRsvBitrate h, .reservedValue), (.hdrRsvRate h, .reservedValue), (.hdrFreeFormat h, .freeFormatUnsupported)],
      ∃ t, exec row.1 s = .next t ∧ Ended row.2 0 s t ∧
        t.br = { s.br with pos := s.br.pos - 24 } ∧
        t.hdr = { word := 0, start := 0, valid := false } ∧ t.frm = State.reset.frm ∧
        t = { s with br := t.br, hdr := t.hdr, frm := t.frm, st := t.st, cp := t.cp }

/-- `DECODE_FRAME` without a held header just before the cursor (R442, check 1): `UnsupportedLayer`; against the session
(check 2, R444): `SessionMismatch`. Nothing changes but `HDR.valid`. With a truncated body (check 3; R443, R445):
`StreamExhausted`, the cursor stays after the header, the session may have been opened. -/
def Obligations.DecodeFrameNeedsHeaderAndSession : Prop :=
  (∀ s : State, ¬ (s.hdr.valid = true ∧ s.br.pos = s.hdr.start + 32 ∧ s.frm.layer ≠ 0) →
    (s.hdr.valid = true → s.br.pos = s.hdr.start + 32 → s.bodyEnd < 2 ^ 64) →
    ∃ t, exec .decodeFrame s = .next t ∧ Ended .unsupportedLayer 0 s t ∧ t.hdr = { s.hdr with valid := false } ∧
      t = { s with hdr := t.hdr, st := t.st, cp := t.cp }) ∧
  (∀ s : State, s.hdr.valid = true → s.br.pos = s.hdr.start + 32 → s.frm.layer ≠ 0 → s.bodyEnd < 2 ^ 64 →
    s.ses.init = true → (s.frm.channels ≠ s.ses.channels ∨ s.frm.rate ≠ s.ses.rate) →
    ∃ t, exec .decodeFrame s = .next t ∧ Ended .sessionMismatch 0 s t ∧ t.hdr = { s.hdr with valid := false } ∧
      t = { s with hdr := t.hdr, st := t.st, cp := t.cp }) ∧
  ∀ s : State, BrInv s → s.hdr.valid = true → s.br.pos = s.hdr.start + 32 → s.frm.layer ≠ 0 →
    s.sessionAgrees = true → s.bodyEnd < 2 ^ 64 → 8 * s.src.bytes.length < s.bodyEnd →
    ∃ t, exec .decodeFrame s = .next t ∧ Ended .streamExhausted 0 s t ∧ t.hdr = { s.hdr with valid := false } ∧
      t.br.pos = s.br.pos ∧ t.br.eod = true ∧
      t.ses = (if s.ses.init then s.ses
        else { s.ses with init := true, channels := s.frm.channels, rate := s.frm.rate }) ∧
      t = { s with br := t.br, hdr := t.hdr, ses := t.ses, st := t.st, cp := t.cp, freeCtr := t.freeCtr }

/-- `DECODE_FRAME` past its checks (R441, R446, R447): the layer decoder runs on the body from `frameStart`, and its end
is the command's; what `FB` then holds is unspecified (R40). -/
def Obligations.DecodeFrameRunsItsLayer : Prop :=
  ∀ s : State, BrInv s → FrameReady s →
    exec .decodeFrame s = .next
      (match decodeLayer s.frm.layer.toNat (frameStart s) with
       | .ok _ u => endCommand .ok (s.frm.spf.setWidth 32) (forgetFb u)
       | .error e u => endCommand e 0 (forgetFb u))

/-- A successful `DECODE_FRAME` (R443, R448, R449, R450): exactly `FRM.spf` samples in each of the session's channels of
the bound sink and none in the other, so that the host reads a size of two bytes for each (R36, R95), no other sink
touched, the cursor at the end of the frame, the header used up. -/
def Obligations.DecodeFrameWritesItsSamples : Prop :=
  ∀ s t : State, Inv s → exec .decodeFrame s = .next t → t.st.code = 0 →
    t.st.value = s.frm.spf.setWidth 32 ∧
    (t.outSink ≠ 0 → ∀ ch < 2,
      (rd (rd t.sinks t.outSink.toNat).data ch).length =
        if ch < t.ses.channels.toNat then s.frm.spf.toNat else 0) ∧
    (t.outSink ≠ 0 → t.sinkSize t.outSink.toNat = 2 * (s.frm.spf.toNat * t.ses.channels.toNat)) ∧
    t.sinkSize 0 = 0 ∧
    (∀ k < 256, k ≠ t.outSink.toNat → rd t.sinks k = rd s.sinks k) ∧
    t.br.pos = s.hdr.start + 8 * s.frm.len.setWidth 64 ∧ t.hdr = { s.hdr with valid := false } ∧
    t.ses = { s.ses with init := true, channels := s.frm.channels, rate := s.frm.rate } ∧
    t.made = s.made.set s.frm.layer.toNat ∧
    t = { s with
      br := t.br, hdr := t.hdr, ses := t.ses, eq := t.eq, sf := t.sf, st := t.st, fb := t.fb, res := t.res,
      ov := t.ov, made := t.made, tr := t.tr, seq := t.seq, sinks := t.sinks, cp := t.cp, ep := t.ep,
      freeCtr := t.freeCtr }

/-- R483: a `DECODE_FRAME` that ends with an error, whatever it is, has changed no filter, no equalizer value, no overlap
and no reservoir, but for making the Layer III slot, and no sink but for clearing the bound one. -/
def Obligations.DecodeFrameErrorsAreAtomic : Prop :=
  ∀ s t : State, exec .decodeFrame s = .next t → t.st.code ≠ 0 →
    t.sf = s.sf ∧ t.eq = s.eq ∧ t.ep = s.ep ∧ t.frm = s.frm ∧
    ((t.res = s.res ∧ t.ov = s.ov) ∨
      (s.made.l3 = false ∧ t.made.l3 = true ∧ t.res = [] ∧ t.ov = State.reset.ov)) ∧
    (∀ k < 256, rd t.sinks k = rd s.sinks k ∨
      (k = s.outSink.toNat ∧ k ≠ 0 ∧ ∀ ch < 2, rd (rd t.sinks k).data ch = [])) ∧
    t = { s with
      br := t.br, hdr := t.hdr, ses := t.ses, st := t.st, fb := t.fb, res := t.res, ov := t.ov, made := t.made,
      tr := t.tr, sinks := t.sinks, cp := t.cp, freeCtr := t.freeCtr }

/-- A Layer III frame that passes checks 1 to 3 ends with `OK`, whatever its body holds: side information always fits, and
granule-level errors are warnings (R321, R322, R486); by `DECODE_FRAME`, and by the row `FRAME_L3`, whose header was just
fetched (R2, R133; log entry 21). -/
def Obligations.LayerThreeFramesEndOk : Prop :=
  (∀ s : State, Inv s → FrameReady s → s.frm.layer = 3 →
    ∃ t, exec .decodeFrame s = .next t ∧ t.st.code = 0 ∧ t.st.value = s.frm.spf.setWidth 32 ∧
      t.st.warn ∈ [0, Code.huffmanTableError.toByte, Code.reservoirUnderrun.toByte]) ∧
  ∀ (h : HeaderFields) (s : State), Inv s → 32 ≤ s.br.pos.toNat → headerClass s.cfg.syncBits h = .layer3 →
    FrameReady (acceptHeader h (s.br.pos - 32) s) →
    ∃ t, exec (.frameL3 h) s = .next t ∧ t.st.code = 0 ∧ t.st.value = BitVec.ofNat 32 (headerSpf h) ∧
      t.hdr = { word := joinHeader h, start := s.br.pos - 32, valid := false } ∧
      t.frm = headerFrm s.cfg.lsfHalveL2 h t.frm.vbr

/-- Layer I and Layer II frames end with `OK` when no code or index that was sent is a forbidden one and the samples fit
the body (R272 to R274, R279, R298, R299, R306, R441), whatever the samples are; so in particular a body of zero bits
that holds the allocation, such as the 28 bytes of the spec's frame. By `DECODE_FRAME` and by their rows (log
entry 21). -/
def Obligations.LayerOneAndTwoFramesEndOk : Prop :=
  (∀ s : State, Inv s → FrameReady s →
    (s.frm.layer = 1 ∧ (layer1Plan (frameStart s)).Fits1 ∨
      s.frm.layer = 2 ∧ (layer2Plan (frameStart s)).Fits2 s.cfg (frameStart s).allocTable2.1) →
    ∃ t, exec .decodeFrame s = .next t ∧ Ended .ok (s.frm.spf.setWidth 32) s t) ∧
  (∀ s : State, Inv s → FrameReady s → (∀ b ∈ s.bodyBytes, b = 0) →
    (s.frm.layer = 1 ∧ (layer1Plan (frameStart s)).codesEnd ≤ 8 * s.bodyLen ∨
      s.frm.layer = 2 ∧ (layer2Plan (frameStart s)).codesEnd ≤ 8 * s.bodyLen) →
    ∃ t, exec .decodeFrame s = .next t ∧ Ended .ok (s.frm.spf.setWidth 32) s t) ∧
  ∀ (h : HeaderFields) (s u : State), Inv s → 32 ≤ s.br.pos.toNat → u = acceptHeader h (s.br.pos - 32) s →
    FrameReady u →
    (headerClass s.cfg.syncBits h = .layer1 →
      (layer1Plan (frameStart u)).Fits1 ∨
        ((∀ b ∈ u.bodyBytes, b = 0) ∧ (layer1Plan (frameStart u)).codesEnd ≤ 8 * u.bodyLen) →
      ∃ t, exec (.frameL1 h) s = .next t ∧ Ended .ok 384 s t ∧ t.hdr = { u.hdr with valid := false } ∧ t.frm = u.frm) ∧
    (headerClass s.cfg.syncBits h = .layer2 →
      (layer2Plan (frameStart u)).Fits2 u.cfg (frameStart u).allocTable2.1 ∨
        ((∀ b ∈ u.bodyBytes, b = 0) ∧ (layer2Plan (frameStart u)).codesEnd ≤ 8 * u.bodyLen) →
      ∃ t, exec (.frameL2 h) s = .next t ∧ Ended .ok 1152 s t ∧ t.hdr = { u.hdr with valid := false } ∧ t.frm = u.frm)

/-- `L1Decode` (R271 to R276): the first forbidden allocation code or scale-factor index that lies in the body is a
`ReservedValue`; else a body that ends before its last sample is `StreamExhausted`; else allocation, scale factors and
dequantised samples are what stands at their places, and the filters are fed: the 12 sample sets in order, channel 0 before
channel 1 in each, one synthesis call each (R277). The bound of the plan is that of R135, the scale factors are those of
R278. -/
def Obligations.LayerOneBodyIsRead : Prop :=
  (∀ (num : NumSystem), ∀ i < 63, scale num i =
    Machine.Num.mul num Machine.Num.two (Machine.Num.pow num Machine.Num.two
      (Machine.Num.div num (Machine.Num.dyadic num (-i) 0) (Machine.Num.ofNat num 3)))) ∧
  ∀ (s : State) (b : BodyPlan), b = layer1Plan s → s.nch = 1 ∨ s.nch = 2 → b.size < 2 ^ 32 →
    b.bound = s.jointBound ∧ JointBound s s.jointBound ∧
    (decodeLayer 1 s = match parse1 s.nch s.jointBound s with
      | .ok _ t => .ok () (feedGrid 12 s.nch t)
      | .error e t => .error e t) ∧
    (∀ t : State, FedGrid 12 s.nch t (feedGrid 12 s.nch t)) ∧
    ((∃ j < b.codes, b.codePos (j + 1) ≤ b.size ∧ b.code j = 15) →
      ∃ t, parse1 s.nch s.jointBound s = .error .reservedValue t) ∧
    ((∀ j < b.codes, b.codePos (j + 1) ≤ b.size → b.code j ≠ 15) →
      (b.size < b.codesEnd → ∃ t, parse1 s.nch s.jointBound s = .error .streamExhausted t) ∧
      (b.codesEnd ≤ b.size →
        (∃ n < 32 * b.nch, b.allocated n = true ∧ b.factorPos1 n + 6 ≤ b.size ∧ b.factor1 n = 63) →
        ∃ t, parse1 s.nch s.jointBound s = .error .reservedValue t) ∧
      ((∀ n < 32 * b.nch, b.allocated n = true → b.factorPos1 n + 6 ≤ b.size → b.factor1 n ≠ 63) →
        b.size < b.setPos1 12 → ∃ t, parse1 s.nch s.jointBound s = .error .streamExhausted t)) ∧
    (b.Fits1 →
      ∃ t, parse1 s.nch s.jointBound s = .ok () t ∧
        t = { s with fb := t.fb, tr := { s.tr with l1 := t.tr.l1, grid := t.tr.grid } } ∧
        t.fb = { s.fb with pos := BitVec.ofNat 32 (b.setPos1 12) } ∧
        ∀ ch < s.nch, ∀ sb < 32,
          (t.alloc1 ch sb).toNat = b.alloc ch sb ∧
          (b.alloc ch sb ≠ 0 → (t.scf1 ch sb).toNat = b.factor1 (s.nch * sb + ch)) ∧
          ∀ i < 12, rd (rd (rd t.tr.grid ch) sb) i =
            if b.alloc ch sb = 0 then Machine.Num.zero
            else dequantised1 s.cfg.num (b.sample1 i (b.index ch sb)) (b.alloc ch sb + 1) (b.factor1 (s.nch * sb + ch)))

/-- `L2Decode` (R291, R295 to R304): a forbidden scale-factor index that lies in the body is a `ReservedValue`; else a body
that ends before its last triple is `StreamExhausted`; else allocation, selection, scale factors and dequantised samples
are what stands at their places, and the filters are fed: the 36 sample sets in order, channel 0 before channel 1 in each,
one synthesis call each (R305). The allocation table and `sblimit` are those of R292, the bound that of R135 clipped to
`sblimit`; the rows of the five tables and the classes have the values of R293 and R300 as their defaults. -/
def Obligations.LayerTwoBodyIsRead : Prop :=
  (∀ row ∈ [(Config.default.l2Alloc.a, 0, 2, 4, [0, 2, 4, 5, 6, 7, 8, 9, 10, 11, 12, 13, 14, 15, 16]),
      (Config.default.l2Alloc.b, 0, 2, 4, [0, 2, 4, 5, 6, 7, 8, 9, 10, 11, 12, 13, 14, 15, 16]),
      (Config.default.l2Alloc.a, 3, 10, 4, [0, 1, 2, 3, 4, 5, 6, 7, 8, 9, 10, 11, 12, 13, 16]),
      (Config.default.l2Alloc.b, 3, 10, 4, [0, 1, 2, 3, 4, 5, 6, 7, 8, 9, 10, 11, 12, 13, 16]),
      (Config.default.l2Alloc.a, 11, 22, 3, [0, 1, 2, 3, 4, 5, 16]),
      (Config.default.l2Alloc.b, 11, 22, 3, [0, 1, 2, 3, 4, 5, 16]),
      (Config.default.l2Alloc.a, 23, 26, 2, [0, 1, 16]), (Config.default.l2Alloc.b, 23, 29, 2, [0, 1, 16])] ++
      [(Config.default.l2Alloc.c, 0, 1, 4, [0, 1, 3, 4, 5, 6, 7, 8, 9, 10, 11, 12, 13, 14, 15]),
      (Config.default.l2Alloc.d, 0, 1, 4, [0, 1, 3, 4, 5, 6, 7, 8, 9, 10, 11, 12, 13, 14, 15]),
      (Config.default.l2Alloc.c, 2, 7, 3, [0, 1, 3, 4, 5, 6, 7]),
      (Config.default.l2Alloc.d, 2, 11, 3, [0, 1, 3, 4, 5, 6, 7]),
      (Config.default.l2Alloc.lsf, 0, 3, 4, [0, 1, 2, 3, 4, 5, 6, 7, 8, 9, 10, 11, 12, 13, 14]),
      (Config.default.l2Alloc.lsf, 4, 10, 3, [0, 1, 3, 4, 5, 6, 7]), (Config.default.l2Alloc.lsf, 11, 29, 2, [0, 1, 3])],
    ∀ sb, row.2.1 ≤ sb → sb ≤ row.2.2.1 →
      ((allocRow row.1 sb).nbal : Nat) = row.2.2.2.1 ∧ (allocRow row.1 sb).classes = row.2.2.2.2) ∧
  (∀ q < 17,
    (rd Config.default.l2Quant q).steps =
      [3, 5, 7, 9, 15, 31, 63, 127, 255, 511, 1023, 2047, 4095, 8191, 16383, 32767, 65535].getD q 0 ∧
    (rd Config.default.l2Quant q).bits = [2, 3, 3, 4, 4, 5, 6, 7, 8, 9, 10, 11, 12, 13, 14, 15, 16].getD q 0 ∧
    (rd Config.default.l2Quant q).group = (if q = 0 then some 5 else if q = 1 then some 7 else if q = 3 then some 10 else none) ∧
    (rd Config.default.l2Quant q).dExp = (if q = 0 ∨ q = 1 ∨ q = 3 then 1 else (rd Config.default.l2Quant q).bits - 1)) ∧
  ∀ (s : State) (b : BodyPlan) (t : List AllocRow) (limit bpc : Nat), b = layer2Plan s → (t, limit) = s.allocTable2 →
    bpc = s.frm.bitrate.toNat / 1000 / s.nch → s.nch = 1 ∨ s.nch = 2 → b.size < 2 ^ 32 →
    (t, limit) =
      (if s.frm.version ≠ 1 then (s.cfg.l2Alloc.lsf, 30)
       else if (56 ≤ bpc ∧ bpc ≤ 80) ∨ (s.frm.rate = 48000 ∧ 56 ≤ bpc) then (s.cfg.l2Alloc.a, 27)
       else if s.frm.rate ≠ 48000 ∧ 96 ≤ bpc then (s.cfg.l2Alloc.b, 30)
       else if s.frm.rate ≠ 32000 ∧ bpc ≤ 48 then (s.cfg.l2Alloc.c, 8)
       else (s.cfg.l2Alloc.d, 12)) ∧
    b.bound = min s.jointBound limit ∧ b.nbal.length = limit ∧
    (∀ sb < limit, b.nbal.getD sb 0 = (allocRow t sb).nbal) ∧ JointBound s s.jointBound ∧
    (decodeLayer 2 s = match parse2 t limit s.nch (min s.jointBound limit) s with
      | .ok _ u => .ok () (feedGrid 36 s.nch u)
      | .error e u => .error e u) ∧
    (∀ u : State, FedGrid 36 s.nch u (feedGrid 36 s.nch u)) ∧
    ((∃ n < b.nch * limit, b.allocated n = true ∧
        ∃ i < b.sent n, b.factorPos2 n + 6 * (i + 1) ≤ b.size ∧ b.index2 n i = 63) →
      ∃ u, parse2 t limit s.nch (min s.jointBound limit) s = .error .reservedValue u) ∧
    ((∀ n < b.nch * limit, b.allocated n = true → ∀ i < b.sent n, b.factorPos2 n + 6 * (i + 1) ≤ b.size →
        b.index2 n i ≠ 63) →
      b.size < b.setPos2 s.cfg t 12 →
      ∃ u, parse2 t limit s.nch (min s.jointBound limit) s = .error .streamExhausted u) ∧
    (b.Fits2 s.cfg t →
      ∃ u, parse2 t limit s.nch (min s.jointBound limit) s = .ok () u ∧
        u = { s with fb := u.fb, tr := { s.tr with l2 := u.tr.l2, grid := u.tr.grid } } ∧
        u.fb = { s.fb with pos := BitVec.ofNat 32 (b.setPos2 s.cfg t 12) } ∧
        ∀ ch < s.nch, ∀ sb < 32,
          (u.alloc2 ch sb).toNat = b.alloc ch sb ∧
          (b.alloc ch sb ≠ 0 →
            (u.scfsi2 ch sb).toNat = b.select (s.nch * sb + ch) ∧
            ∀ p < 3, (u.scf2 ch sb p).toNat = b.factor2 (s.nch * sb + ch) p) ∧
          ∀ gr < 12, ∀ q < 3, rd (rd (rd u.tr.grid ch) sb) (3 * gr + q) =
            if b.alloc ch sb = 0 then Machine.Num.zero
            else dequantised2 s.cfg.num (b.class2 s.cfg t (b.index ch sb)) (b.value2 s.cfg t gr (b.index ch sb) q)
              (b.factor2 (s.nch * sb + ch) (gr / 4)))

/-- `ParseSideInfo` (R140 to R143, R322): every field of the side information is the bits at its place in the frame body;
a body that ends before is `StreamExhausted`. -/
def Obligations.SideInformationIsRead : Prop :=
  ∀ (s : State) (v1 : Bool) (head record : Nat), v1 = decide (s.frm.version = 1) → s.nch = 1 ∨ s.nch = 2 →
    head = (if v1 then (if s.nch = 1 then 18 else 20) else if s.nch = 1 then 9 else 10) →
    record = (if v1 then 59 else 63) → 8 * s.fb.bytes.length < 2 ^ 32 →
    (8 * s.fb.bytes.length < s.fb.pos.toNat + head + s.ngr * s.nch * record →
      ∃ t, parseSideInfo s = .error .streamExhausted t) ∧
    (s.fb.pos.toNat + head + s.ngr * s.nch * record ≤ 8 * s.fb.bytes.length →
      ∃ t, parseSideInfo s = .ok () t ∧
        t = { s with fb := t.fb, tr := { s.tr with si := t.tr.si } } ∧
        t.fb = { s.fb with pos := BitVec.ofNat 32 (s.fb.pos.toNat + head + s.ngr * s.nch * record) } ∧
        t.tr.si.mainDataBegin.toNat = bitsAt s.fb.bytes s.fb.pos.toNat (if v1 then 9 else 8) ∧
        (∀ ch < 2, ∀ i < 4, (rd (rd t.tr.si.scfsi ch) i).toNat =
          if v1 = true ∧ ch < s.nch then
            bitsAt s.fb.bytes (s.fb.pos.toNat + (if s.nch = 1 then 14 else 12) + 4 * ch + i) 1
          else 0) ∧
        ∀ gr < s.ngr, ∀ ch < s.nch,
          GranuleAt s.fb.bytes (s.fb.pos.toNat + head + record * (s.nch * gr + ch)) v1 (t.granule gr ch))

/-- R331, R334: after a Layer III frame `RES` holds the last 511 bytes of what it held followed by the frame's own
main-data area. -/
def Obligations.ReservoirKeepsTheNewestBytes : Prop :=
  ∀ s t : State, Inv s → FrameReady s → s.frm.layer = 3 → exec .decodeFrame s = .next t →
    t.res = (s.reservoir ++ s.mainData).drop ((s.reservoir ++ s.mainData).length - 511) ∧
    t.res.length = min 511 (s.reservoir.length + s.mainData.length)

/-- R332: a frame that refers to bytes the reservoir does not hold ends with `OK` and one `ReservoirUnderrun`, and every
granule of it, in both granules of an MPEG-1 frame, is decoded as one whose every channel is silent: no bit of it is
read, its scale factors, lines and `NZ` are 0, and no further warning is recorded. -/
def Obligations.UnderRunSilencesTheFrame : Prop :=
  (∀ (gr ch p : Nat) (s t : State), ch < 2 → t = decodeLines true gr ch p s →
    rd t.tr.nz ch = 0 ∧ (∀ k < 576, rd (rd t.tr.is ch) k = 0) ∧ (∀ b < 23, rd (rd t.tr.scf ch).l b = 0) ∧
    (∀ w < 3, ∀ b < 13, rd (rd (rd t.tr.scf ch).s w) b = 0) ∧
    (∀ c < 2, c ≠ ch → rd t.tr.nz c = rd s.tr.nz c ∧ rd t.tr.is c = rd s.tr.is c ∧ rd t.tr.scf c = rd s.tr.scf c) ∧
    t = { s with tr := { s.tr with nz := t.tr.nz, is := t.tr.is, scf := t.tr.scf, ill := t.tr.ill } }) ∧
  (∀ (gr : Nat) (s : State), s.nch ≤ 2 →
    ∃ u, decodeGranule true gr s = granuleStages gr u ∧
      (∀ ch < s.nch, rd u.tr.nz ch = 0 ∧ (∀ k < 576, rd (rd u.tr.is ch) k = 0) ∧
        (∀ k < 576, rd (rd (requantize gr ch u).tr.xr ch) k = Machine.Num.zero)) ∧
      u = { s with tr := { s.tr with nz := u.tr.nz, is := u.tr.is, scf := u.tr.scf, ill := u.tr.ill } }) ∧
  ∀ s : State, Inv s → FrameReady s → s.frm.layer = 3 → s.reservoir.length < s.mainDataBegin →
    ∃ t u, exec .decodeFrame s = .next t ∧ t.st.code = 0 ∧ t.st.warn = Code.reservoirUnderrun.toByte ∧
      t.st.gerr = (if s.st.gerr = BitVec.allOnes 32 then s.st.gerr else s.st.gerr + 1) ∧
      t = endCommand .ok (s.frm.spf.setWidth 32)
        (forgetFb (loop (if s.frm.version = 1 then 2 else 1) (decodeGranule true) u)) ∧
      Warned .reservoirUnderrun (frameStart s) u ∧ u.frm = s.frm ∧
      ∀ ch < s.frm.channels.toNat, rd t.tr.nz ch = 0 ∧ ∀ k < 576, rd (rd t.tr.is ch) k = 0

/-- `GranuleChecks` (R335, R363, R376): first, bits beyond the main-data window are a `ReservoirUnderrun`; then a reserved
block kind, `big_values` above 288, a `table_select` 4 or 14 of a region that holds a pair, a mixed block whose band 3 does
not start at line 36, and scale factors longer than the granule-channel are a `HuffmanTableError` each; else nothing is
wrong. That a region holds a pair when it has a line by the clipped bounds is the model's choice (log entry 40). -/
def Obligations.GranuleChecksInOrder : Prop :=
  ∀ (gr ch p : Nat) (s : State) (g : Granule) (lines r1 r2 : Nat), g = s.granule gr ch → lines = 2 * g.bigValues.toNat →
    RegionEnds s.cfg s.frm.rate.toNat g r1 r2 →
    granuleChecks gr ch p s =
      (if 8 * s.tr.md.len.toNat < p + g.part23Length.toNat then some .reservoirUnderrun
       else if (g.windowSwitching = 1 ∧ g.blockType = 0) ∨ 288 < g.bigValues.toNat ∨
          (0 < r1 ∧ rd g.tableSelect 0 ∈ [(4 : BitVec 5), 14]) ∨ (r1 < r2 ∧ rd g.tableSelect 1 ∈ [(4 : BitVec 5), 14]) ∨
          (r2 < lines ∧ rd g.tableSelect 2 ∈ [(4 : BitVec 5), 14]) ∨
          (g.windowSwitching = 1 ∧ g.blockType = 2 ∧ g.mixedBlock = 1 ∧
            3 * (sfbShort s.cfg s.frm.rate.toNat).getD 3 0 ≠ 36) ∨
          g.part23Length.toNat < s.part2Length gr ch then some .huffmanTableError
       else none)

/-- A granule-channel of a frame that is not under-run (R321, R333, R335, R374, R376): when a check fails, its warning and
silence; when all pass, its scale factors are read from bit P on and its lines after them, up to `end` = P +
`part2_3_length`, where the cursor stands afterwards; no bit of the window outside P .. `end` - 1 has an influence; the
lines, `NZ` and scale factors of the other channel stay. -/
def Obligations.GranuleChannelIsDecoded : Prop :=
  ∀ (gr ch p stop : Nat) (s t : State), gr < 2 → ch < 2 → stop = p + (s.granule gr ch).part23Length.toNat →
    t = decodeLines false gr ch p s →
    t = { s with st := t.st, tr := t.tr, seq := t.seq } ∧
    (∀ c < 2, c ≠ ch → rd t.tr.nz c = rd s.tr.nz c ∧ rd t.tr.is c = rd s.tr.is c ∧ rd t.tr.scf c = rd s.tr.scf c) ∧
    (∀ e, granuleChecks gr ch p s = some e →
      Warned e s t ∧ rd t.tr.nz ch = 0 ∧ (∀ k < 576, rd (rd t.tr.is ch) k = 0) ∧
      (∀ b < 23, rd (rd t.tr.scf ch).l b = 0) ∧ (∀ w < 3, ∀ b < 13, rd (rd (rd t.tr.scf ch).s w) b = 0) ∧
      t.tr = { s.tr with nz := t.tr.nz, is := t.tr.is, scf := t.tr.scf, ill := t.tr.ill } ∧ t.seq = s.seq) ∧
    (granuleChecks gr ch p s = none → stop < 2 ^ 32 →
      ∃ v u, v = { s with tr := { s.tr with md := { s.tr.md with pos := BitVec.ofNat 32 p } } } ∧
        u = readScaleFactors gr ch v ∧ u.tr.md.pos.toNat = p + s.part2Length gr ch ∧ u.tr.md.pos.toNat ≤ stop ∧
        t = huffDecode gr ch stop u ∧ t.tr.md = { s.tr.md with pos := BitVec.ofNat 32 stop } ∧
        t.tr = { u.tr with is := t.tr.is, nz := t.tr.nz, md := t.tr.md } ∧
        ∀ bytes : List Byte, (∀ k, p ≤ k → k < stop → bitAt bytes k = bitAt s.tr.md.bytes k) →
          decodeLines false gr ch p { s with tr := { s.tr with md := { s.tr.md with bytes := bytes } } } =
            { t with tr := { t.tr with md := { t.tr.md with bytes := bytes } } })

/-- `HuffDecode` (R361, R363, R372, R374, R375): `big_values` pairs from the cursor on, each with the `table_select` of the
region in which its first line lies, then quadruples until the bits before `end` or the lines run out or a word crosses
`end`; the lines after the last are 0. A pair that fails ends it with a `HuffmanTableError`, and the lines from it on are
0. `NZ` is one more than the index of the last non-zero line, and the cursor ends at `end`. -/
def Obligations.HuffmanRegionsAreDecoded : Prop :=
  ∀ (gr ch stop r1 r2 big : Nat) (s t : State) (g : Granule) (table : Nat → Nat), gr < 2 → ch < 2 → g = s.granule gr ch →
    big = g.bigValues.toNat → big ≤ 288 → stop < 2 ^ 32 → RegionEnds s.cfg s.frm.rate.toNat g r1 r2 →
    (∀ i, table i =
      (if i < r1 then rd g.tableSelect 0 else if i < r2 then rd g.tableSelect 1 else rd g.tableSelect 2).toNat) →
    t = huffDecode gr ch stop s →
    t = { s with st := t.st, tr := t.tr, seq := t.seq } ∧
    t.tr = { s.tr with is := t.tr.is, nz := t.tr.nz, md := t.tr.md } ∧
    t.tr.md = { s.tr.md with pos := BitVec.ofNat 32 stop } ∧
    (∀ c < 2, c ≠ ch → rd t.tr.is c = rd s.tr.is c ∧ rd t.tr.nz c = rd s.tr.nz c) ∧
    (∀ k < 576, (rd t.tr.nz ch).toNat ≤ k → rd (rd t.tr.is ch) k = 0) ∧
    (rd t.tr.nz ch ≠ 0 → rd (rd t.tr.is ch) ((rd t.tr.nz ch).toNat - 1) ≠ 0) ∧
    ∀ (n : Nat) (x y : Nat → Int) (q : Nat → Nat), n ≤ big → q 0 = s.tr.md.pos.toNat →
      (∀ k < n, pairWord s.cfg (table (2 * k)) s.tr.md stop (q k) = some ((x k, y k), q (k + 1))) →
      (n < big → pairWord s.cfg (table (2 * n)) s.tr.md stop (q n) = none →
        Warned .huffmanTableError s t ∧
        ∀ k < 576, rd (rd t.tr.is ch) k =
          if k < 2 * n then BitVec.ofInt 16 (if k % 2 = 0 then x (k / 2) else y (k / 2)) else 0) ∧
      (n = big →
        ∀ (m : Nat) (z : Nat → Int × Int × Int × Int) (r : Nat → Nat), r 0 = q n →
          (∀ j < m, r j < stop ∧ 2 * big + 4 * j ≤ 572 ∧
            quadWord s.cfg g.count1TableSelect s.tr.md stop (r j) = some (z j, r (j + 1))) →
          (stop ≤ r m ∨ 572 < 2 * big + 4 * m ∨ quadWord s.cfg g.count1TableSelect s.tr.md stop (r m) = none) →
          t.st = s.st ∧
          ∀ k < 576, rd (rd t.tr.is ch) k =
            if k < 2 * big then BitVec.ofInt 16 (if k % 2 = 0 then x (k / 2) else y (k / 2))
            else if k < 2 * big + 4 * m then
              BitVec.ofInt 16
                ([(z ((k - 2 * big) / 4)).1, (z ((k - 2 * big) / 4)).2.1, (z ((k - 2 * big) / 4)).2.2.1,
                  (z ((k - 2 * big) / 4)).2.2.2].getD ((k - 2 * big) % 4) 0)
            else 0)

/-- A Layer III frame (R321, R331 to R334, R429). Of one granule: the lines of its channels, each at the sum P of the lengths
before it, then requantisation of the channels, stereo with two, the hybrid stage of each channel with its own block kind,
and 18 synthesis calls of channel 0 before those of channel 1, each with the column of `HY` that is its turn; none of these
stages warns. Of one frame: the check word is skipped, the side information parsed, the reservoir and the main-data window
brought up to date, and the granules decoded in order. `ST.warn` is 0 exactly if the reservoir holds what the frame refers
to and no granule-channel warned. -/
def Obligations.LayerThreeGranulesAreDecoded : Prop :=
  (∀ (gr : Nat) (s a b c : State),
    (s.nch = 1 → a = requantize gr 0 s → b = hybrid (blockKind (a.granule gr 0)) 0 a →
      FedBy 0 b (granuleStages gr s)) ∧
    (s.nch = 2 → a = stereo gr (requantize gr 1 (requantize gr 0 s)) → b = hybrid (blockKind (a.granule gr 0)) 0 a →
      c = hybrid (blockKind (b.granule gr 1)) 1 b →
      ∃ d, FedBy 0 c d ∧ FedBy 1 d (granuleStages gr s)) ∧
    (s.nch = 1 ∨ s.nch = 2 →
      (granuleStages gr s).st.first = s.st.first ∧ (granuleStages gr s).st.gerr = s.st.gerr)) ∧
  (∀ (under : Bool) (gr : Nat) (s : State) (p : Nat → Nat), s.nch = 1 ∨ s.nch = 2 →
    (∀ c, p c = ((List.range (s.nch * gr + c)).map fun n =>
      (s.granule (n / s.nch) (n % s.nch)).part23Length.toNat).sum) →
    decodeGranule under gr s =
      granuleStages gr
        (if s.nch = 1 then decodeLines under gr 0 (p 0) s
         else decodeLines under gr 1 (p 1) (decodeLines under gr 0 (p 0) s))) ∧
  ∀ (s : State) (under : Bool) (ngr : Nat), Inv s → FrameReady s → s.frm.layer = 3 →
    under = decide (s.reservoir.length < s.mainDataBegin) → ngr = (if s.frm.version = 1 then 2 else 1) →
    ∃ t u v w, exec .decodeFrame s = .next t ∧
      v = { frameStart s with
        fb := { (frameStart s).fb with pos := if s.hdr.fields.protection = 0 then 16 else 0 } } ∧
      parseSideInfo v = .ok () w ∧
      u = { w with
        st := u.st
        res := (s.reservoir ++ s.mainData).drop ((s.reservoir ++ s.mainData).length - 511)
        tr := { w.tr with md := u.tr.md } } ∧
      (under = true → Warned .reservoirUnderrun w u ∧ u.tr.md = w.tr.md) ∧
      (under = false → u.st = w.st ∧
        u.tr.md =
          { bytes := (s.reservoir ++ s.mainData).drop (s.reservoir.length - s.mainDataBegin)
            base := BitVec.ofNat 32 (s.reservoir.length - s.mainDataBegin)
            len := BitVec.ofNat 32 (s.mainDataBegin + s.mainData.length)
            pos := w.tr.md.pos }) ∧
      t = endCommand .ok (s.frm.spf.setWidth 32) (forgetFb (loop ngr (decodeGranule under) u)) ∧
      (t.st.warn = 0 ↔
        under = false ∧
        ∀ gr < ngr, ∀ ch < s.nch, ∀ x : State,
          x = loop ch (fun c y => decodeLines false gr c (y.bitOffset gr c) y) (loop gr (decodeGranule false) u) →
          (decodeLines false gr ch (x.bitOffset gr ch) x).st = x.st)

/-! ## Equalizer -/

/-- `EQ_SETBAND` (R123, R232, R479): with a band and a number, the value of the binary32 pattern in `NUM` is clamped to
[-1.0, 1.0] and stored, nothing else changes. With no band of that index or with what is not a number:
`BandOutOfRange`, nothing changes. -/
def Obligations.SetBandStoresTheClampedValue : Prop :=
  (∀ (band : BitVec 8) (v : BitVec 32) (s : State), band.toNat < 32 →
    Machine.Num.isNaN (Machine.Num.ofBinary32 s.cfg.num v) = false →
    ∃ t, exec (.eqSetband band v) s = .next t ∧ Ended .ok 0 s t ∧
      rd t.eq band.toNat =
        (if Machine.Num.le Machine.Num.minusOne (Machine.Num.ofBinary32 s.cfg.num v) = false then Machine.Num.minusOne
         else if Machine.Num.le (Machine.Num.ofBinary32 s.cfg.num v) Machine.Num.one = false then Machine.Num.one
         else Machine.Num.ofBinary32 s.cfg.num v) ∧
      (∀ i < 32, i ≠ band.toNat → rd t.eq i = rd s.eq i) ∧
      t = { s with eq := t.eq, st := t.st, cp := t.cp }) ∧
  ∀ (band : BitVec 8) (v : BitVec 32) (s : State),
    32 ≤ band.toNat ∨ Machine.Num.isNaN (Machine.Num.ofBinary32 s.cfg.num v) = true →
    ∃ t, exec (.eqSetband band v) s = .next t ∧ Ended .bandOutOfRange 0 s t ∧ t = { s with st := t.st, cp := t.cp }

/-- `EQ_APPLY` (R234, R236): both filters take the 32 coefficients 1.0 + `EQ.val[i]`; histories stay. With `EQW` idle
nothing else changes; what `EQW` may do between the two steps is confined to the equalizer (R103, R495). -/
def Obligations.ApplyWritesBothFilters : Prop :=
  ∀ s : State, ∃ t, exec .eqApply s = .next t ∧ Ended .ok 0 s t ∧
    (∀ i < 32, rd (rd t.sf 1).eqf i = Machine.Num.add s.cfg.num Machine.Num.one (rd t.eq i)) ∧
    (∀ ch < 2, (rd t.sf ch).v = (rd s.sf ch).v) ∧
    (s.ep.schedule = [] → t.eq = s.eq ∧ t.ep = s.ep ∧
      ∀ i < 32, rd (rd t.sf 0).eqf i = Machine.Num.add s.cfg.num Machine.Num.one (rd s.eq i)) ∧
    t = { s with eq := t.eq, sf := t.sf, st := t.st, cp := t.cp, ep := t.ep }

/-- The equalizer port (R102, R103, R125, R495): when `EQW` takes its next step with a command word at the head of the
queue, an `EQ_SETBAND` has the effect it has on the command port, an `EQ_APPLY` writes the first filter and stands
before its second step, any other word ends with `IllegalCommand`. The second step of an `EQ_APPLY` writes the second
filter and ends it. The result of a command that ends is delivered on this port and latched in `ST.code`, `ST.warn` and
`ST.value` (R124); the first warning of the command that runs on the command port, and that port, stay (log entry 26).
Without a word nothing happens. -/
def Obligations.EqualizerPortTakesItsTwoCommands : Prop :=
  (∀ (w : CmdWord) (rest : List CmdWord) (s : State), s.ep.halfApplied = false → s.ep.queue = w :: rest →
    (eqwStep s).ep.queue = rest ∧
    eqwStep s = { s with eq := (eqwStep s).eq, sf := (eqwStep s).sf, st := (eqwStep s).st, ep := (eqwStep s).ep } ∧
    (∀ band v, decodeCommand w = .eqSetband band v →
      (∀ t, exec (.eqSetband band v) s = .next t → (eqwStep s).eq = t.eq ∧
        (eqwStep s).ep.results = resultWord t.st.code 0 0 :: s.ep.results ∧
        (eqwStep s).st = { s.st with code := t.st.code, warn := 0, value := 0 }) ∧ (eqwStep s).sf = s.sf) ∧
    (decodeCommand w = .eqApply →
      (eqwStep s).ep = { s.ep with queue := rest, halfApplied := true } ∧ (eqwStep s).eq = s.eq ∧ (eqwStep s).st = s.st ∧ rd (eqwStep s).sf 1 = rd s.sf 1 ∧
      (rd (eqwStep s).sf 0).v = (rd s.sf 0).v ∧
      ∀ i < 32, rd (rd (eqwStep s).sf 0).eqf i = Machine.Num.add s.cfg.num Machine.Num.one (rd s.eq i)) ∧
    ((∀ band v, decodeCommand w ≠ .eqSetband band v) → decodeCommand w ≠ .eqApply →
      (eqwStep s).eq = s.eq ∧ (eqwStep s).sf = s.sf ∧
      (eqwStep s).st = { s.st with code := Code.illegalCommand.toByte, warn := 0, value := 0 } ∧
      (eqwStep s).ep.results = resultWord Code.illegalCommand.toByte 0 0 :: s.ep.results)) ∧
  ∀ s : State,
    (s.ep.halfApplied = true →
      eqwStep s = { s with sf := (eqwStep s).sf, st := (eqwStep s).st, ep := (eqwStep s).ep } ∧
      (eqwStep s).st = { s.st with code := Code.ok.toByte, warn := 0, value := 0 } ∧
      (eqwStep s).ep =
        { s.ep with halfApplied := false, results := resultWord Code.ok.toByte 0 0 :: s.ep.results } ∧
      rd (eqwStep s).sf 0 = rd s.sf 0 ∧ (rd (eqwStep s).sf 1).v = (rd s.sf 1).v ∧
      ∀ i < 32, rd (rd (eqwStep s).sf 1).eqf i = Machine.Num.add s.cfg.num Machine.Num.one (rd s.eq i)) ∧
    (s.ep.halfApplied = false → s.ep.queue = [] → eqwStep s = s)

/-- `SET_EQUALIZER` (R161, R239): 32 `EQ_SETBAND` and one `EQ_APPLY`, 33 result words; with `EQW` idle every value that is
a number is clamped and stored and both filters take the new coefficients. -/
def Obligations.SetEqualizerSetsEveryBand : Prop :=
  ∀ (v : Vector (BitVec 32) 32) (s : State), s.ep.schedule = [] →
    ∃ t, exec (.setEqualizer v) s = .next t ∧ t.st.code = 0 ∧ t.st.value = 0 ∧ t.st.warn = 0 ∧ t.st.gerr = s.st.gerr ∧
      (∀ i < 32,
        rd t.eq i = if Machine.Num.isNaN (bandValue s (rd v i)) then rd s.eq i else clampUnit (bandValue s (rd v i))) ∧
      (∀ ch < 2, (rd t.sf ch).v = (rd s.sf ch).v ∧
        ∀ i < 32, rd (rd t.sf ch).eqf i = Machine.Num.add s.cfg.num Machine.Num.one (rd t.eq i)) ∧
      t.cp.ops = s.cp.ops ∧ t.cp.results.length = s.cp.results.length + 33 ∧
      t = { s with eq := t.eq, sf := t.sf, st := t.st, cp := t.cp }

/-! ## Synthesis -/

/-- A synthesis call of channel ch (R246, R250, R253): the history ages by one vector of 64, its newest vector is the
matrix times the inputs scaled lane by lane with the coefficients; channel ch of the bound sink gets 32 samples, each the
sum of 16 windowed values of the new history, scaled and converted (R252, R254, R255); the other filter, the other
channel and all coefficients stay. The matrix is that of R251. -/
def Obligations.SynthesisCallAgesTheHistory : Prop :=
  ∀ (ch : Nat) (s : State), ch < 2 →
    (∀ i, 64 ≤ i → i < 1024 → rd (rd (synthCall ch s).sf ch).v i = rd (rd s.sf ch).v (i - 64)) ∧
    (∀ i < 64, rd (rd (synthCall ch s).sf ch).v i =
      sum s.cfg.num 32 fun k =>
        Machine.Num.mul s.cfg.num
          (Machine.Num.cos s.cfg.num (Machine.Num.div s.cfg.num
            (Machine.Num.mul s.cfg.num (Machine.Num.ofNat s.cfg.num ((16 + i) * (2 * k + 1))) (Machine.Num.pi s.cfg.num))
            (Machine.Num.ofNat s.cfg.num 64)))
          (Machine.Num.mul s.cfg.num (rd (rd s.tr.sbs ch) k) (rd (rd s.sf ch).eqf k))) ∧
    (rd (synthCall ch s).sf ch).eqf = (rd s.sf ch).eqf ∧
    (∀ c < 2, c ≠ ch → rd (synthCall ch s).sf c = rd s.sf c) ∧
    (s.outSink ≠ 0 →
      rd (rd (synthCall ch s).sinks s.outSink.toNat).data ch =
        rd (rd s.sinks s.outSink.toNat).data ch ++ (List.range 32).map (fun j =>
          Machine.Num.toPcm s.cfg.num s.cfg.pcmRound (Machine.Num.mul s.cfg.num
            (sum s.cfg.num 16 fun i => Machine.Num.mul s.cfg.num
              (rd (rd (synthCall ch s).sf ch).v (if i % 2 = 0 then 64 * i + j else 64 * i + 32 + j))
              (rd s.cfg.synthWindow (j + 32 * i)))
            s.cfg.outScale)) ∧
      (synthCall ch s).sinkSize s.outSink.toNat = s.sinkSize s.outSink.toNat + 64 ∧
      ∀ c < 2, c ≠ ch →
        rd (rd (synthCall ch s).sinks s.outSink.toNat).data c = rd (rd s.sinks s.outSink.toNat).data c) ∧
    (∀ k < 256, (s.outSink = 0 ∨ k ≠ s.outSink.toNat) → rd (synthCall ch s).sinks k = rd s.sinks k) ∧
    synthCall ch s = { s with sf := (synthCall ch s).sf, sinks := (synthCall ch s).sinks }

/-- R257: a zero history with zero input (each lane either has input 0.0 and a finite coefficient, or coefficient 0.0 and
a finite input) stays zero and emits 32 zeros, whatever the window, the output scale and the number system are. That a
sum starts at +0.0, so that its zeros are positive, is the model's choice (log entry 4). -/
def Obligations.ZeroInZeroOut : Prop :=
  ∀ (ch : Nat) (s : State), ch < 2 → s.outSink ≠ 0 →
    (∀ i < 1024, rd (rd s.sf ch).v i = Machine.Num.zero) →
    (∀ k < 32,
      (rd (rd s.tr.sbs ch) k = Machine.Num.zero ∧ Machine.Num.isFinite (rd (rd s.sf ch).eqf k) = true) ∨
      (rd (rd s.sf ch).eqf k = Machine.Num.zero ∧ Machine.Num.isFinite (rd (rd s.tr.sbs ch) k) = true)) →
    (∀ i < 1024, rd (rd (synthCall ch s).sf ch).v i = Machine.Num.zero) ∧
    rd (rd (synthCall ch s).sinks s.outSink.toNat).data ch =
      rd (rd s.sinks s.outSink.toNat).data ch ++ List.replicate 32 0

/-- R256: the corners of the conversion to 16 bits with truncation, in every number system. -/
def Obligations.PcmConversionCorners : Prop :=
  ∀ num : NumSystem,
    Machine.Num.toPcm num .truncate (Machine.Num.packRatio num false 999 1000 0) = 0 ∧
    Machine.Num.toPcm num .truncate (Machine.Num.packRatio num true 999 1000 0) = 0 ∧
    Machine.Num.toPcm num .truncate (Machine.Num.packRatio num false 65533 2 0) = 32766 ∧
    Machine.Num.toPcm num .truncate (Machine.Num.packRatio num true 327679 10 0) = -32767 ∧
    (∀ x : Sample, Machine.Num.le (Machine.Num.ofNat num 32767) x = true →
      Machine.Num.toPcm num .truncate x = 32767) ∧
    Machine.Num.le (Machine.Num.ofNat num 32767) (.inf false) = true ∧
    (∀ x : Sample, Machine.Num.le x (Machine.Num.neg (Machine.Num.ofNat num 32768)) = true →
      Machine.Num.toPcm num .truncate x = -32768) ∧
    Machine.Num.le (.inf true) (Machine.Num.neg (Machine.Num.ofNat num 32768)) = true ∧
    Machine.Num.toPcm num .truncate .nan = 0

/-! ## Output, parameters, illegal words -/

/-- `SET_OUTPUT` (R452): a sink below `N_SINKS` is bound and no sink touched; any other identifier is an illegal
command. `GET_PARAM` (R456): the value of the table, and no other state changes; a selector or an index that the table does
not have is an illegal command. Equalizer values travel as binary32 patterns; a value that `NUM` holds and binary32 does
not is rounded (log entry 3). -/
def Obligations.SetOutputAndGetParam : Prop :=
  (∀ (d : BitVec 32) (s : State),
    (d.toNat < s.cfg.nSinks.val →
      ∃ t, exec (.setOutput d) s = .next t ∧ Ended .ok 0 s t ∧ t.outSink.toNat = d.toNat ∧
        t = { s with outSink := t.outSink, st := t.st, cp := t.cp }) ∧
    (s.cfg.nSinks.val ≤ d.toNat →
      ∃ t, exec (.setOutput d) s = .next t ∧ Ended .illegalCommand 0 s t ∧ t = { s with st := t.st, cp := t.cp })) ∧
  ∀ (sel : BitVec 8) (idx : BitVec 32) (s : State),
    (∀ row ∈ [(0, s.ses.rate), (1, s.ses.channels.setWidth 32), (2, s.frm.bitrate), (3, s.frm.len.setWidth 32),
        (4, s.frm.durUs),
        (5, BitVec.ofNat 32 (if s.frm.rate = 0 then 0 else s.frm.spf.toNat * 1000 / s.frm.rate.toNat)),
        (6, if s.frm.vbr then 1 else 0), (7, s.frm.version.setWidth 32), (8, s.frm.layer.setWidth 32), (9, s.frm.rate),
        (10, s.frm.channels.setWidth 32), (11, s.frm.spf.setWidth 32), (12, s.hdr.word),
        (13, if s.hdr.valid then 1 else 0), (14, s.hdr.start.extractLsb' 0 32), (15, s.hdr.start.extractLsb' 32 32)] ++
        [(16, s.br.pos.extractLsb' 0 32), (17, s.br.pos.extractLsb' 32 32), (18, s.br.pulled.extractLsb' 0 32),
        (19, s.br.pulled.extractLsb' 32 32), (20, if s.br.eod then 1 else 0), (21, s.st.gerr),
        (22, Machine.Num.toBinary32 (rd s.eq idx.toNat)),
        (23, Machine.Num.toBinary32 (Machine.Num.add s.cfg.num Machine.Num.one (rd s.eq idx.toNat))),
        (24, if s.ses.init then 1 else 0),
        (25, BitVec.ofNat 32 s.res.length), (26, s.outSink.setWidth 32),
        (27, (if s.made.l3 then 4 else 0) ||| (if s.made.l2 then 2 else 0) ||| (if s.made.l1 then 1 else 0))],
      sel = row.1 → (if sel = 22 ∨ sel = 23 then idx.toNat < 32 else idx = 0) →
      ∃ t, exec (.getParam sel idx) s = .next t ∧ Ended .ok row.2 s t ∧ t = { s with st := t.st, cp := t.cp }) ∧
    (27 < sel.toNat ∨ (if sel = 22 ∨ sel = 23 then 32 ≤ idx.toNat else idx ≠ 0) →
      ∃ t, exec (.getParam sel idx) s = .next t ∧ Ended .illegalCommand 0 s t ∧ t = { s with st := t.st, cp := t.cp })

/-- R126: an opcode that is none, a reserved field that is not 0, an operand that must be 0 and is not, and `READBITS` of
0 or more than 32 bits end with `IllegalCommand` and change nothing but `ST` and the result word. That any other operand
out of range (`SET_OUTPUT`, `GET_PARAM`) belongs to its own instruction is the model's choice (log entry 24). R24: a
command whose cursor would pass 2^64 - 1 ends so too, before the cursor moves (the order of this test: log entry 20). -/
def Obligations.IllegalCommandWordsChangeNothing : Prop :=
  (∀ w : CmdWord,
    (cmdOp w ∉ [0x01, 0x02, 0x03, 0x10, 0x11, 0x12, 0x20, 0x30, 0x31, 0x40, 0x50] ∨ cmdRsv w ≠ 0 ∨
      (cmdOp w ∈ [0x01, 0x02, 0x03, 0x11, 0x12, 0x20, 0x31, 0x40] ∧ cmdA w ≠ 0) ∨
      (cmdOp w ∈ [0x01, 0x02, 0x03, 0x10, 0x11, 0x12, 0x20, 0x31] ∧ cmdD w ≠ 0)) ↔
      decodeCommand w = .illegalCmd w) ∧
  (∀ (w : CmdWord) (n : BitVec 8) (s : State), n = 0 ∨ 32 < n.toNat →
    ∀ i ∈ [Instr.illegalCmd w, .readbits n],
      ∃ t, exec i s = .next t ∧ Ended .illegalCommand 0 s t ∧ t = { s with st := t.st, cp := t.cp }) ∧
  ∀ s : State,
    (∀ n : BitVec 8, 1 ≤ n.toNat → n.toNat ≤ 32 → 2 ^ 64 ≤ s.br.pos.toNat + n.toNat →
      ∃ t, exec (.readbits n) s = .next t ∧ Ended .illegalCommand 0 s t ∧ t = { s with st := t.st, cp := t.cp }) ∧
    (2 ^ 64 ≤ s.br.pos.toNat + 32 →
      ∃ t, exec .parseHeader s = .next t ∧ Ended .illegalCommand 0 s t ∧ t = { s with st := t.st, cp := t.cp }) ∧
    (2 ^ 64 ≤ 8 * bytesFor s.br.pos.toNat →
      ∃ t, exec .sync s = .next t ∧ Ended .illegalCommand 0 s t ∧ t = { s with st := t.st, cp := t.cp }) ∧
    (s.hdr.valid = true → s.br.pos = s.hdr.start + 32 → 2 ^ 64 ≤ s.bodyEnd →
      ∃ t, exec .decodeFrame s = .next t ∧ Ended .illegalCommand 0 s t ∧ t = { s with st := t.st, cp := t.cp })

/-! ## Resets -/

/-- `RESTART` (R523, R524): what is cleared, and that everything else but the unspecified transient registers is kept.
`REINIT` (R522, R524): what `RESTART` clears, and the session, the slots, the filter histories and the overlap. The byte
source goes on with what the host has positioned it to, or with what it had not delivered (log entry 9). That the
sequencer `seq` stays is the model's choice (log entry 41), and that `RESTART` keeps `LD.made` is what R523 and R524 say
against D32 (log entry 43). -/
def Obligations.RestartClearsTheStream : Prop :=
  (∀ s : State, ∃ t, exec .restart s = .next t ∧ Ended .ok 0 s t ∧
    t.br = State.reset.br ∧ t.hdr = State.reset.hdr ∧ t.frm = State.reset.frm ∧ t.fb = State.reset.fb ∧ t.res = [] ∧
    t.ses = { s.ses with prevBitrate := 0, vbr := false } ∧
    t.src.bytes = s.src.upcoming.getD (s.src.bytes.drop s.br.pulled.toNat) ∧ t.src.upcoming = none ∧
    t = { s with
      br := t.br, hdr := t.hdr, frm := t.frm, ses := t.ses, st := t.st, fb := t.fb, res := t.res, tr := t.tr,
      src := t.src, cp := t.cp, freeCtr := t.freeCtr }) ∧
  ∀ s : State, ∃ t, exec .reinit s = .next t ∧ Ended .ok 0 s t ∧
    t.br = State.reset.br ∧ t.hdr = State.reset.hdr ∧ t.frm = State.reset.frm ∧ t.fb = State.reset.fb ∧ t.res = [] ∧
    t.ses = State.reset.ses ∧ t.made = State.reset.made ∧ t.ov = State.reset.ov ∧
    (∀ ch < 2, (rd t.sf ch).eqf = (rd s.sf ch).eqf ∧ ∀ i < 1024, rd (rd t.sf ch).v i = Machine.Num.zero) ∧
    t.src.bytes = s.src.upcoming.getD (s.src.bytes.drop s.br.pulled.toNat) ∧ t.src.upcoming = none ∧
    t = { s with
      br := t.br, hdr := t.hdr, frm := t.frm, ses := t.ses, sf := t.sf, st := t.st, fb := t.fb, res := t.res,
      ov := t.ov, made := t.made, tr := t.tr, src := t.src, cp := t.cp, freeCtr := t.freeCtr }

/-- `RESET` (R47, R521, R524) completes from every state: every element with a reset value has it; sinks, parameters and
the equalizer port stay (the byte source: log entry 9), and so does the model's sequencer `seq` (log entry 41). The hardware's reset input has the same effect without a result
word (R521). -/
def Obligations.ResetClearsEverything : Prop :=
  (∀ s : State, ∃ t, exec .reset s = .next t ∧ t.st = State.reset.st ∧
    t.cp = { s.cp with results := resultWord 0 0 0 :: s.cp.results } ∧
    t.src.bytes = s.src.upcoming.getD (s.src.bytes.drop s.br.pulled.toNat) ∧ t.src.upcoming = none ∧
    t = { State.reset with
      tr := t.tr, seq := s.seq, src := t.src, sinks := s.sinks, cp := t.cp, ep := s.ep, cfg := s.cfg,
      freeCtr := t.freeCtr }) ∧
  ∀ (rest : List HostOp) (s : State), s.cp.ops = .resetInput :: rest →
    ∃ t u, step s = .next t ∧ exec .reset (dequeue rest (eqBoundary s)) = .next u ∧
      t = { u with cp := { u.cp with results := s.cp.results } }

/-! ## Pseudo-instructions -/

/-- `NEXT_HEADER` terminates (R161, R187): from every state it ends with an accepted header just before the cursor, or with
`StreamExhausted`. It takes the first sync pattern when its header is accepted (R161): one `SYNC` and one
`PARSE_HEADER`. `DECODE_NEXT` (R161, R458) is `NEXT_HEADER` and, if it ended with `OK`, `DECODE_FRAME`; `EQW` may act
between the two. -/
def Obligations.NextHeaderEnds : Prop :=
  (∀ s : State, BrInv s → s.src.bytes.length < 2 ^ 60 →
    ∃ t, exec .nextHeader s = .next t ∧
      ((t.st.code = 0 ∧ t.hdr.valid = true ∧ t.br.pos = t.hdr.start + 32 ∧
          headerClass s.cfg.syncBits (splitHeader t.hdr.word) ∈ [.layer1, .layer2, .layer3] ∧
          s.br.pos.toNat ≤ t.hdr.start.toNat ∧ t.hdr.start.toNat % 8 = 0 ∧
          t.hdr.word = BitVec.ofNat 32 (bitsAt s.src.bytes t.hdr.start.toNat 32)) ∨
        t.st.code = Code.streamExhausted.toByte)) ∧
  (∀ (p : Nat) (s : State), BrInv s → s.src.bytes.length < 2 ^ 60 →
    bytesFor s.br.pos.toNat ≤ p → PatternAt s p → (∀ q, bytesFor s.br.pos.toNat ≤ q → q < p → ¬ PatternAt s q) →
    p + 4 ≤ s.src.bytes.length →
    headerVerdict s.cfg.syncBits (BitVec.ofNat 32 (bitsAt s.src.bytes (8 * p) 32)) = .ok →
    ∃ t, exec .nextHeader s = .next t ∧ t.st.code = 0 ∧ t.br.pos.toNat = 8 * p + 32 ∧
      t.hdr = { word := BitVec.ofNat 32 (bitsAt s.src.bytes (8 * p) 32), start := BitVec.ofNat 64 (8 * p), valid := true } ∧
      t.frm = headerFrm s.cfg.lsfHalveL2 t.hdr.fields t.frm.vbr ∧
      t.cp.ops = s.cp.ops ∧ t.cp.results.length = s.cp.results.length + 2) ∧
  ∀ s : State, ∃ t u, exec .nextHeader s = .next t ∧ exec .decodeFrame (eqBoundary t) = .next u ∧
    exec .decodeNext s = .next (if t.st.code = 0 then u else t)

/-! ## Layer III selectors -/

/-- The `table_select` rows that name a codebook or none (R361, R362, R365, R375; log entry 22: one pair at the
sequencer): the pair word at the cursor is stored as the next two lines and the cursor moves past it; a word that needs
a bit beyond the end silences the remainder with a `HuffmanTableError`; nothing happens once the granule-channel is
finished or full. -/
def Obligations.TableSelectDecodesOnePair : Prop :=
  ∀ s : State, ∀ row ∈ [(0, Instr.tsel0), (1, .tsel1), (2, .tsel2), (3, .tsel3), (5, .tsel5), (6, .tsel6), (7, .tsel7),
      (8, .tsel8), (9, .tsel9), (10, .tsel10), (11, .tsel11), (12, .tsel12), (13, .tsel13), (15, .tsel15),
      (16, .tsel16)] ++
      [(17, .tsel17), (18, .tsel18), (19, .tsel19), (20, .tsel20), (21, .tsel21), (22, .tsel22), (23, .tsel23),
      (24, .tsel24), (25, .tsel25), (26, .tsel26), (27, .tsel27), (28, .tsel28), (29, .tsel29), (30, .tsel30),
      (31, .tsel31)],
    ∃ t, exec row.2 s = .next t ∧ t = { s with st := t.st, tr := t.tr, seq := t.seq } ∧
      t.tr = { s.tr with is := t.tr.is, nz := t.tr.nz, md := t.tr.md } ∧
      (s.seq.done = true ∨ 574 < s.seq.line → t = s) ∧
      (s.seq.done = false → s.seq.line ≤ 574 →
        (∀ x y q, pairWord s.cfg row.1 s.tr.md s.seq.lim s.tr.md.pos.toNat = some ((x, y), q) →
          LinesStored [x, y] s t ∧ t.tr.md = { s.tr.md with pos := BitVec.ofNat 32 q } ∧ t.tr.nz = s.tr.nz ∧
          t.seq = { s.seq with line := s.seq.line + 2 } ∧ t.st = s.st) ∧
        (pairWord s.cfg row.1 s.tr.md s.seq.lim s.tr.md.pos.toNat = none →
          LinesFinished s t ∧ Warned .huffmanTableError s t))

/-- The reserved selectors: `table_select` 4 and 14 and the block kind with `block_type` 0 (R323, R362, R376, R345; log
entry 22): the granule-channel is silent, with a `HuffmanTableError`, and finished. -/
def Obligations.ReservedSelectorsSilence : Prop :=
  ∀ (m : BitVec 1) (s : State), ∀ i ∈ [Instr.tsel4, .tsel14, .blkReserved m],
    ∃ t, exec i s = .next t ∧ Warned .huffmanTableError s t ∧
      rd t.tr.nz s.seqCh = 0 ∧ (∀ k < 576, rd (rd t.tr.is s.seqCh) k = 0) ∧
      (∀ b < 23, rd (rd t.tr.scf s.seqCh).l b = 0) ∧ (∀ w < 3, ∀ b < 13, rd (rd (rd t.tr.scf s.seqCh).s w) b = 0) ∧
      (∀ c < 2, c ≠ s.seqCh → rd t.tr.nz c = rd s.tr.nz c ∧ rd t.tr.is c = rd s.tr.is c ∧ rd t.tr.scf c = rd s.tr.scf c) ∧
      t.seq = { s.seq with done := true } ∧
      t.tr = { s.tr with is := t.tr.is, nz := t.tr.nz, scf := t.tr.scf, ill := t.tr.ill } ∧
      t = { s with st := t.st, tr := t.tr, seq := t.seq }

/-- The `count1table_select` rows (R361, R368, R369, R375; log entry 22: one quadruple): the word at the cursor is stored
as the next four lines; without bits or lines, or with a word that crosses the end, the granule-channel ends and
nothing is warned. -/
def Obligations.Count1DecodesOneQuadruple : Prop :=
  ∀ s : State, ∀ row ∈ [(0, Instr.count1A), (1, .count1B)],
    ∃ t, exec row.2 s = .next t ∧ t = { s with tr := t.tr, seq := t.seq } ∧
      t.tr = { s.tr with is := t.tr.is, nz := t.tr.nz, md := t.tr.md } ∧
      (s.seq.done = true → t = s) ∧
      (s.seq.done = false → s.tr.md.pos.toNat < s.seq.lim → s.seq.line ≤ 572 →
        (∀ v w x y q, quadWord s.cfg row.1 s.tr.md s.seq.lim s.tr.md.pos.toNat = some ((v, w, x, y), q) →
          LinesStored [v, w, x, y] s t ∧ t.tr.md = { s.tr.md with pos := BitVec.ofNat 32 q } ∧ t.tr.nz = s.tr.nz ∧
          t.seq = { s.seq with line := s.seq.line + 4 }) ∧
        (quadWord s.cfg row.1 s.tr.md s.seq.lim s.tr.md.pos.toNat = none → LinesFinished s t)) ∧
      (s.seq.done = false → (s.seq.lim ≤ s.tr.md.pos.toNat ∨ 572 < s.seq.line) → LinesFinished s t)

/-- R366: in a prefix-free codebook, the bits of an entry's word at p give that entry, and the cursor moves past it. -/
def Obligations.LookupReadsTheCodeWord : Prop :=
  ∀ (α : Type) (book : List (CodeWord α)) (e : CodeWord α) (md : MainData) (stop p : Nat),
    PrefixFree book → e ∈ book → 1 ≤ e.hlen → p + e.hlen ≤ stop → p + e.hlen ≤ 8 * md.len.toNat →
    bitsAt md.bytes p e.hlen = e.hcod → lookup book md stop p = some (e.value, p + e.hlen)

/-- The words of a pair and of a quadruple (R362, R364, R365, R368, R369): which codebook and how many linbits a
`table_select` has; the value x of the codebook, its linbits when it is 15, its sign when it is not 0, then the same for
y; the signs of v, w, x, y when they are 1. A word fails exactly if its codebook finds none or if it does not end inside
the granule-channel and the window. -/
def Obligations.PairAndQuadWordsAreRead : Prop :=
  (∀ row ∈ [(0, none), (1, some (1, 0)), (2, some (2, 0)), (3, some (3, 0)), (4, none), (5, some (5, 0)), (6, some (6, 0)),
      (7, some (7, 0)), (8, some (8, 0)), (9, some (9, 0)), (10, some (10, 0)), (11, some (11, 0)), (12, some (12, 0)),
      (13, some (13, 0)), (14, none), (15, some (15, 0))] ++
      [(16, some (16, 1)), (17, some (16, 2)), (18, some (16, 3)), (19, some (16, 4)), (20, some (16, 6)),
      (21, some (16, 8)), (22, some (16, 10)), (23, some (16, 13)), (24, some (24, 4)), (25, some (24, 5)),
      (26, some (24, 6)), (27, some (24, 7)), (28, some (24, 8)), (29, some (24, 9)), (30, some (24, 11)),
      (31, some (24, 13))],
    tableSelectRow row.1 = row.2) ∧
  (∀ c : Config,
    (∀ row ∈ [(1, pairWords c.books.b1), (2, pairWords c.books.b2), (3, pairWords c.books.b3), (5, pairWords c.books.b5),
        (6, pairWords c.books.b6), (7, pairWords c.books.b7), (8, pairWords c.books.b8), (9, pairWords c.books.b9)] ++
        [(10, pairWords c.books.b10), (11, pairWords c.books.b11), (12, pairWords c.books.b12),
        (13, pairWords c.books.b13), (15, pairWords c.books.b15), (16, pairWords c.books.b16),
        (24, pairWords c.books.b24)],
      pairBook c row.1 = row.2) ∧
    quadBook c 0 = quadWords c.books.quadA ∧ quadBook c 1 = quadWords c.books.quadB) ∧
  ∀ (c : Config) (md : MainData) (stop p : Nat),
    pairWord c 0 md stop p = some ((0, 0), p) ∧
    (∀ t b linbits, tableSelectRow t = some (b, linbits) →
      (lookup (pairBook c b) md stop p = none → pairWord c t md stop p = none) ∧
      ∀ x y q, lookup (pairBook c b) md stop p = some ((x, y), q) →
        pairWord c t md stop p =
          (if (codedValue linbits md y (codedValue linbits md x q).2).2 ≤ min stop (8 * md.len.toNat) then
            some (((codedValue linbits md x q).1, (codedValue linbits md y (codedValue linbits md x q).2).1),
              (codedValue linbits md y (codedValue linbits md x q).2).2)
           else none)) ∧
    ∀ sel : BitVec 1,
      (lookup (quadBook c sel) md stop p = none → quadWord c sel md stop p = none) ∧
      ∀ n q, lookup (quadBook c sel) md stop p = some (n, q) →
        ∀ v w x y, v = codedSign md (n / 8 % 2) q → w = codedSign md (n / 4 % 2) v.2 → x = codedSign md (n / 2 % 2) w.2 →
          y = codedSign md (n % 2) x.2 →
          quadWord c sel md stop p =
            if y.2 ≤ min stop (8 * md.len.toNat) then some ((v.1, w.1, x.1, y.1), y.2) else none

/-! ## Layer III scale factors, requantisation, stereo -/

/-- `ReadScaleFactors` in MPEG-1 (R336 to R339, R344, R345): where each scale factor of a short, a mixed and a long
granule-channel stands; what is not sent is 0, or in granule 1 the long band's value of granule 0; `Part2Length` is the
number of bits read. -/
def Obligations.ScaleFactorsOfMpegOne : Prop :=
  ∀ (gr ch : Nat) (s t : State) (g : Granule) (l1 l2 p : Nat), gr < 2 → ch < 2 → s.frm.version = 1 →
    g = s.granule gr ch → l1 = [0, 0, 0, 0, 3, 1, 1, 1, 2, 2, 2, 3, 3, 3, 4, 4].getD g.scalefacCompress.toNat 0 →
    l2 = [0, 1, 2, 3, 0, 1, 2, 3, 1, 2, 3, 1, 2, 3, 2, 3].getD g.scalefacCompress.toNat 0 →
    p = s.tr.md.pos.toNat → p + s.part2Length gr ch < 2 ^ 32 → t = readScaleFactors gr ch s →
    FactorFrame ch s t ∧ t.tr.si = s.tr.si ∧ t.tr.md.pos.toNat = p + s.part2Length gr ch ∧
    t.tr.ill = (if gr = 0 ∧ ch = 1 then default else s.tr.ill) ∧
    (blockKind g = .short →
      s.part2Length gr ch = 18 * l1 + 18 * l2 ∧
      (∀ b < 23, rd (rd t.tr.scf ch).l b = if gr = 0 then 0 else rd (rd s.tr.scf ch).l b) ∧
      ∀ w < 3, ∀ b < 13, rd (rd (rd t.tr.scf ch).s w) b =
        if b < 6 then factorAt s (p + l1 * (3 * b + w)) l1
        else if b < 12 then factorAt s (p + 18 * l1 + l2 * (3 * (b - 6) + w)) l2
        else 0) ∧
    (blockKind g = .mixed →
      s.part2Length gr ch = 17 * l1 + 18 * l2 ∧
      (∀ b < 23, rd (rd t.tr.scf ch).l b =
        if b < 8 then factorAt s (p + l1 * b) l1 else if gr = 0 then 0 else rd (rd s.tr.scf ch).l b) ∧
      ∀ w < 3, ∀ b < 13, rd (rd (rd t.tr.scf ch).s w) b =
        if b < 3 then 0
        else if b < 6 then factorAt s (p + 8 * l1 + l1 * (3 * (b - 3) + w)) l1
        else if b < 12 then factorAt s (p + 17 * l1 + l2 * (3 * (b - 6) + w)) l2
        else 0) ∧
    (blockKind g ≠ .short → blockKind g ≠ .mixed →
      ∀ len : Nat → Nat,
        (∀ b, len b =
          if gr = 1 ∧ rd (rd s.tr.si.scfsi ch) (if b < 6 then 0 else if b < 11 then 1 else if b < 16 then 2 else 3) = 1 then 0
          else if b < 11 then l1 else l2) →
        s.part2Length gr ch = ((List.range 21).map len).sum ∧
        (∀ b < 23, rd (rd t.tr.scf ch).l b =
          if 21 ≤ b then 0
          else if gr = 1 ∧
              rd (rd s.tr.si.scfsi ch) (if b < 6 then 0 else if b < 11 then 1 else if b < 16 then 2 else 3) = 1 then
            rd (rd s.tr.scf ch).l b
          else factorAt s (p + ((List.range b).map len).sum) (len b)) ∧
        ∀ w < 3, ∀ b < 13, rd (rd (rd t.tr.scf ch).s w) b = 0)

/-- `ReadScaleFactors` in MPEG-2 and MPEG-2.5 (R340, R341, R344, R345): which four lengths and which row of
`NR_OF_SFB` a `scalefac_compress` stands for; entry k of the flat list stands after the entries before it and goes to its
band; the right channel's illegal positions are the largest values of their fields; `preflag` is set. -/
def Obligations.ScaleFactorsOfLsf : Prop :=
  (∀ a < 5, ∀ b < 5, ∀ d < 4, ∀ e < 4, lsfLengths false (16 * (5 * a + b) + 4 * d + e) = ([a, b, d, e], 0, 0)) ∧
  (∀ a < 5, ∀ b < 5, ∀ d < 4, lsfLengths false (400 + 4 * (5 * a + b) + d) = ([a, b, d, 0], 1, 0)) ∧
  (∀ a < 4, ∀ b < 3, lsfLengths false (500 + 3 * a + b) = ([a, b, 0, 0], 2, 1)) ∧
  (∀ i < 2,
    (∀ a < 5, ∀ b < 6, ∀ d < 6, lsfLengths true (2 * (36 * a + 6 * b + d) + i) = ([a, b, d, 0], 3, 0)) ∧
    (∀ a < 4, ∀ b < 4, ∀ d < 4, lsfLengths true (2 * (180 + 16 * a + 4 * b + d) + i) = ([a, b, d, 0], 4, 0)) ∧
    ∀ a < 4, ∀ b < 3, lsfLengths true (2 * (244 + 3 * a + b) + i) = ([a, b, 0, 0], 5, 0)) ∧
  ∀ (ch : Nat) (s t : State) (g : Granule) (ir : Bool) (len : List Nat) (p : Nat), ch < 2 → s.frm.version ≠ 1 →
    g = s.granule 0 ch → ir = (ch == 1 && s.jointStereo && s.isBit) → p = s.tr.md.pos.toNat →
    len = (List.range 4).flatMap (fun i => List.replicate
      (((([[[6, 5, 5, 5], [9, 9, 9, 9], [6, 9, 9, 9]], [[6, 5, 7, 3], [9, 9, 12, 6], [6, 9, 12, 6]],
          [[11, 10, 0, 0], [18, 18, 0, 0], [15, 18, 0, 0]], [[7, 7, 7, 0], [12, 12, 12, 0], [6, 15, 12, 0]],
          [[6, 6, 6, 3], [12, 9, 9, 6], [6, 12, 9, 6]], [[8, 8, 5, 0], [15, 12, 9, 0], [6, 18, 9, 0]]] :
        List (List (List Nat))).getD (lsfLengths ir g.scalefacCompress.toNat).2.1 []).getD
          (if blockKind g = .short then 1 else if blockKind g = .mixed then 2 else 0) []).getD i 0)
      ((lsfLengths ir g.scalefacCompress.toNat).1.getD i 0)) →
    p + len.sum < 2 ^ 32 → t = readScaleFactors 0 ch s →
    s.part2Length 0 ch = len.sum ∧ t.tr.md.pos.toNat = p + len.sum ∧ FactorFrame ch s t ∧
    t.granule 0 ch = { g with preflag := BitVec.ofNat 1 (lsfLengths ir g.scalefacCompress.toNat).2.2 } ∧
    (∀ gr < 2, ∀ c < 2, (gr, c) ≠ (0, ch) → t.granule gr c = s.granule gr c) ∧
    t.tr.si = { s.tr.si with g := t.tr.si.g } ∧ (ch = 0 → t.tr.ill = s.tr.ill) ∧
    ∀ (entry : Nat → BitVec 5) (ill : Nat → BitVec 5),
      (∀ k, entry k = factorAt s (p + (len.take k).sum) (len.getD k 0)) →
      (∀ k, ill k = BitVec.ofNat 5 (2 ^ len.getD k 0 - 1)) →
      (∀ b < 23,
        rd (rd t.tr.scf ch).l b =
          (if blockKind g = .short then 0 else if (if blockKind g = .mixed then 6 else 21) ≤ b then 0 else entry b) ∧
        (ch = 1 → rd t.tr.ill.l b =
          if blockKind g = .short then 0 else if (if blockKind g = .mixed then 6 else 21) ≤ b then 0 else ill b)) ∧
      ∀ w < 3, ∀ b < 13,
        rd (rd (rd t.tr.scf ch).s w) b =
          (if b = 12 then 0 else if blockKind g = .short then entry (3 * b + w)
           else if blockKind g = .mixed ∧ 3 ≤ b then entry (6 + 3 * (b - 3) + w) else 0) ∧
        (ch = 1 → rd (rd t.tr.ill.s w) b =
          if b = 12 then 0 else if blockKind g = .short then ill (3 * b + w)
          else if blockKind g = .mixed ∧ 3 ≤ b then ill (6 + 3 * (b - 3) + w) else 0)

/-- `Requantize` (R391 to R394): each line of the channel is the power law of its value with the exponent of its band, in a
long part with `preflag`, in a short part with the gain of its window; nothing else changes. The bands are those of any
tables that rise. -/
def Obligations.RequantizeAppliesThePowerLaw : Prop :=
  ∀ (gr ch : Nat) (s t : State) (g : Granule) (rate mult : Nat), gr < 2 → ch < 2 → g = s.granule gr ch →
    rate = s.frm.rate.toNat → mult = (if g.scalefacScale = 0 then 2 else 4) → Ascending (sfbLong s.cfg rate) →
    Ascending (sfbShort s.cfg rate) → t = requantize gr ch s →
    t = { s with tr := { s.tr with xr := t.tr.xr } } ∧ (∀ c < 2, c ≠ ch → rd t.tr.xr c = rd s.tr.xr c) ∧
    (∀ k < 576, rd (rd s.tr.is ch) k = 0 → rd (rd t.tr.xr ch) k = Machine.Num.zero) ∧
    (∀ sfb, ∀ k < 576, InLong s.cfg rate sfb k →
      ((blockKind g ≠ .short ∧ blockKind g ≠ .mixed) ∨ (blockKind g = .mixed ∧ k < 36)) →
      rd (rd t.tr.xr ch) k = powerLaw s.cfg.num (rd (rd s.tr.is ch) k).toInt
        ((g.globalGain.toNat : Int) - 210 -
          mult * ((rd (rd s.tr.scf ch).l sfb).toNat +
            g.preflag.toNat *
              [0, 0, 0, 0, 0, 0, 0, 0, 0, 0, 0, 1, 1, 1, 1, 2, 2, 3, 3, 3, 2, 0].getD sfb 0 : Nat))) ∧
    ∀ sfb w, ∀ k < 576, InShort s.cfg rate sfb w k → (blockKind g = .short ∨ (blockKind g = .mixed ∧ 36 ≤ k)) →
      rd (rd t.tr.xr ch) k = powerLaw s.cfg.num (rd (rd s.tr.is ch) k).toInt
        ((g.globalGain.toNat : Int) - 210 - 8 * (rd g.subblockGain w).toNat -
          mult * (rd (rd (rd s.tr.scf ch).s w) sfb).toNat)

/-- `Stereo` (R400 to R403, R406 to R408, R410): outside joint stereo nothing happens; without intensity stereo every line
is mid and side or stays; with it, when channel 0 is long, the bands above the boundary take the position that the
right channel sent for them, band 21 that of band 20, and an illegal position leaves the line to mid and side. What the
right channel did not send reads as 0 (log entry 39). -/
def Obligations.StereoOfLongBlocks : Prop :=
  ∀ (gr : Nat) (s t : State), t = stereo gr s →
    (s.jointStereo = false → t = s) ∧
    t = { s with tr := { s.tr with xr := t.tr.xr } } ∧
    (s.jointStereo = true → s.isBit = false → ∀ k < 576, StereoLine s t gr none k) ∧
    (s.jointStereo = true → s.isBit = true → blockKind (s.granule gr 0) ≠ .short →
      blockKind (s.granule gr 0) ≠ .mixed → Ascending (sfbLong s.cfg s.frm.rate.toNat) →
      ∀ b, LongBoundary s (rd s.tr.nz 1).toNat b →
        ∀ sfb, ∀ k < 576, InLong s.cfg s.frm.rate.toNat sfb k →
          StereoLine s t gr
            (if sfb = 21 then (if b ≤ 20 then some (longFactors s gr 20) else none)
             else if b ≤ sfb then some (longFactors s gr sfb) else none) k)

/-- `Stereo` when channel 0 is short or mixed and intensity stereo is on (R404, R405): each window has its own boundary,
band 12 takes the position of band 11; the long part of a mixed block has intensity lines only if the right channel is
zero in all of the short part. A long band that the right channel did not send reads as 0 (log entry 39). -/
def Obligations.StereoOfShortBlocks : Prop :=
  ∀ (gr : Nat) (s t : State) (rate : Nat), t = stereo gr s → rate = s.frm.rate.toNat →
    s.jointStereo = true → s.isBit = true → Ascending (sfbLong s.cfg rate) → Ascending (sfbShort s.cfg rate) →
    (sfbShort s.cfg rate).getD 13 0 = 192 →
    (∀ first, (blockKind (s.granule gr 0) = .short ∧ first = 0) ∨
        (blockKind (s.granule gr 0) = .mixed ∧ first = 3 ∧ (sfbShort s.cfg rate).getD 3 0 = 12) →
      ∀ b w, ShortBoundary s first w b →
        ∀ sfb k, first ≤ sfb → InShort s.cfg rate sfb w k →
          StereoLine s t gr
            (if sfb = 12 then (if b ≤ 11 then some (shortFactors s w 11) else none)
             else if b ≤ sfb then some (shortFactors s w sfb) else none) k) ∧
    (blockKind (s.granule gr 0) = .mixed → (sfbShort s.cfg rate).getD 3 0 = 12 →
      ((∃ w < 3, ∃ b, ShortBoundary s 3 w b ∧ b ≠ 3) → ∀ k < 36, StereoLine s t gr none k) ∧
      ((∀ w < 3, ShortBoundary s 3 w 3) →
        ∀ nz ≤ 36, (∀ k, nz ≤ k → k < 36 → rd (rd s.tr.is 1) k = 0) →
          (nz ≠ 0 → rd (rd s.tr.is 1) (nz - 1) ≠ 0) → ∀ b, LongBoundary s nz b →
          ∀ sfb, ∀ k < 36, InLong s.cfg rate sfb k →
            StereoLine s t gr
              (if b ≤ sfb ∧ sfb ≤ (if s.frm.version = 1 then 7 else 5) then some (longFactors s gr sfb) else none) k))

/-- R364, R368: the codebooks that the spec prints, the defaults of their parameters, are prefix-free and complete, and code
each pair or quadruple once. -/
def Obligations.PrintedBooksArePrefixFree : Prop :=
  (∀ row ∈ [(1, 4), (2, 9), (3, 9), (5, 16), (6, 16)],
    PrefixFree (pairBook Config.default row.1) ∧ (pairBook Config.default row.1).length = row.2 ∧
    ((pairBook Config.default row.1).map CodeWord.value).Nodup ∧
    ((pairBook Config.default row.1).map fun e => 2 ^ (8 - e.hlen)).sum = 256) ∧
  ∀ sel : BitVec 1, ∀ book, book = quadBook Config.default sel →
    PrefixFree book ∧ book.length = 16 ∧ (book.map CodeWord.value).Nodup ∧
    (book.map fun e => 2 ^ (6 - e.hlen)).sum = 64

/-- The block kinds (R323, R415, R418, R419, R422 to R427; log entry 22): the lines of the sequencer's channel are
reordered; at each subband boundary that the kind has (none in a short block, the first in a mixed one) eight butterflies
rotate the lines on both sides, the other lines stay; each subband is transformed and windowed by its block type, which is
0 in the two lowest subbands of a mixed block; its first half is added to the old tail, odd samples of odd subbands change
sign, and its second half becomes the new tail; the other channel stays. `mixed_block_flag` is ignored by START and STOP. A
kind without short lines is not reordered; what reordering does to the others is `ReorderMovesWindowLines`. -/
def Obligations.BlockKindsTransformTheChannel : Prop :=
  ∀ (m : BitVec 1) (s : State),
    ∀ row ∈ [(BlockKind.normal, Instr.blkNormal, 0, 31), (.start, .blkStart m, 1, 31), (.short, .blkShort, 2, 0),
        (.mixed, .blkMixed, 2, 1), (.stop, .blkStop m, 3, 31)],
      ∃ (t : State) (x : Vector Sample 576), exec row.2.1 s = .next t ∧ t = hybrid row.1 s.seqCh s ∧
        x = reordered s.cfg s.frm.rate.toNat row.1 (rd s.tr.xr s.seqCh) ∧
        (row.1 ≠ .short → row.1 ≠ .mixed → x = rd s.tr.xr s.seqCh) ∧
        (∀ sb, 1 ≤ sb → sb ≤ row.2.2.2 → ∀ i < 8, ∀ lo hi, lo = rd x (18 * sb - 1 - i) → hi = rd x (18 * sb + i) →
          rd (rd t.tr.xr s.seqCh) (18 * sb - 1 - i) =
            Machine.Num.sub s.cfg.num (Machine.Num.mul s.cfg.num lo (rotation s.cfg.num i).1)
              (Machine.Num.mul s.cfg.num hi (rotation s.cfg.num i).2) ∧
          rd (rd t.tr.xr s.seqCh) (18 * sb + i) =
            Machine.Num.add s.cfg.num (Machine.Num.mul s.cfg.num hi (rotation s.cfg.num i).1)
              (Machine.Num.mul s.cfg.num lo (rotation s.cfg.num i).2)) ∧
        (∀ k < 576, (∀ sb, 1 ≤ sb → sb ≤ row.2.2.2 → k + 8 < 18 * sb ∨ 18 * sb + 8 ≤ k) →
          rd (rd t.tr.xr s.seqCh) k = rd x k) ∧
        (∀ sb < 32, ∀ (bt : Nat) (out : Nat → Sample), bt = (if row.1 = .mixed ∧ sb < 2 then 0 else row.2.2.1) →
          (∀ i, out i = transformValue s.cfg.num bt (fun k => rd (rd t.tr.xr s.seqCh) (18 * sb + k)) i) →
          ∀ i < 18,
            rd (rd (rd t.tr.hy s.seqCh) sb) i =
              (if sb % 2 = 1 ∧ i % 2 = 1 then
                Machine.Num.neg (Machine.Num.add s.cfg.num (out i) (rd (rd (rd s.ov s.seqCh) sb) i))
               else Machine.Num.add s.cfg.num (out i) (rd (rd (rd s.ov s.seqCh) sb) i)) ∧
            rd (rd (rd t.ov s.seqCh) sb) i = out (18 + i)) ∧
        (∀ c < 2, c ≠ s.seqCh → rd t.tr.xr c = rd s.tr.xr c ∧ rd t.tr.hy c = rd s.tr.hy c ∧ rd t.ov c = rd s.ov c) ∧
        t.tr = { s.tr with xr := t.tr.xr, hy := t.tr.hy } ∧ t = { s with tr := t.tr, ov := t.ov }

/-- R430: with a zero spectrum every block kind plays out the previous tail, odd samples of odd subbands negated, and
leaves a zero tail. That a sum starts at +0.0, so that its zeros are positive (log entry 4), and that a block kind may be
requested alone, on the sequencer's channel (log entry 22), are the model's choices. -/
def Obligations.ZeroSpectrumPlaysOutTheTail : Prop :=
  ∀ (m : BitVec 1) (s : State), (∀ k < 576, rd (rd s.tr.xr s.seqCh) k = Machine.Num.zero) →
    ∀ i ∈ [Instr.blkNormal, .blkStart m, .blkShort, .blkMixed, .blkStop m],
      ∃ t, exec i s = .next t ∧ ∀ sb < 32, ∀ j < 18,
        rd (rd (rd t.tr.hy s.seqCh) sb) j =
          (if sb % 2 = 1 ∧ j % 2 = 1 then
            Machine.Num.neg (Machine.Num.add s.cfg.num Machine.Num.zero (rd (rd (rd s.ov s.seqCh) sb) j))
           else Machine.Num.add s.cfg.num Machine.Num.zero (rd (rd (rd s.ov s.seqCh) sb) j)) ∧
        rd (rd (rd t.ov s.seqCh) sb) j = Machine.Num.zero

/-- R415: with any short table that rises to 192, line 3*(s + f) + w after the reordering of a short block is line
3*s + w*wd + f before, for each band of start s and width wd; the lines of a mixed block below band 3 stay. The printed
tables rise so at every sample rate, the short ones from 0 to 192 and the long ones from 0 to 576 (R343). -/
def Obligations.ReorderMovesWindowLines : Prop :=
  (∀ (c : Config) (rate : Nat) (x : Vector Sample 576), Ascending (sfbShort c rate) → (sfbShort c rate).getD 13 0 ≤ 192 →
    ∀ sfb < 13, ∀ w < 3, ∀ f < (sfbShort c rate).getD (sfb + 1) 0 - (sfbShort c rate).getD sfb 0,
      rd (reordered c rate .short x) (3 * ((sfbShort c rate).getD sfb 0 + f) + w) =
        rd x (3 * (sfbShort c rate).getD sfb 0 +
          w * ((sfbShort c rate).getD (sfb + 1) 0 - (sfbShort c rate).getD sfb 0) + f) ∧
      rd (reordered c rate .mixed x) (3 * ((sfbShort c rate).getD sfb 0 + f) + w) =
        (if sfb < 3 then rd x (3 * ((sfbShort c rate).getD sfb 0 + f) + w)
         else rd x (3 * (sfbShort c rate).getD sfb 0 +
          w * ((sfbShort c rate).getD (sfb + 1) 0 - (sfbShort c rate).getD sfb 0) + f))) ∧
  ∀ rate ∈ [44100, 48000, 32000, 22050, 24000, 16000, 11025, 12000, 8000],
    Ascending (sfbShort Config.default rate) ∧ (sfbShort Config.default rate).getD 0 1 = 0 ∧
    (sfbShort Config.default rate).getD 13 0 = 192 ∧ Ascending (sfbLong Config.default rate) ∧
    (sfbLong Config.default rate).getD 0 1 = 0 ∧ (sfbLong Config.default rate).getD 22 0 = 576
end

