-- ==== Sys2Proof/Laws/State.lean ====
section
/-! SUPPORT. One lemma per register group and update: what an update of one group leaves in every field. Each is a
conjunction, which `simp` uses as one rewrite rule per field. -/

-- One theorem after another: threads that wait for each other exhaust the memory limit with their stacks.
set_option Elab.async false

namespace Sys2Proof.Machine

variable (s : State)

@[simp] theorem State.withBr_fields (x : BitReader) :
    (s.withBr x).br = x ∧ (s.withBr x).hdr = s.hdr ∧ (s.withBr x).frm = s.frm ∧ (s.withBr x).ses = s.ses ∧
    (s.withBr x).eq = s.eq ∧ (s.withBr x).sf = s.sf ∧ (s.withBr x).outSink = s.outSink ∧ (s.withBr x).st = s.st ∧
    (s.withBr x).fb = s.fb ∧ (s.withBr x).res = s.res ∧ (s.withBr x).ov = s.ov ∧ (s.withBr x).made = s.made ∧
    (s.withBr x).tr = s.tr ∧ (s.withBr x).seq = s.seq ∧ (s.withBr x).src = s.src ∧ (s.withBr x).sinks = s.sinks ∧
    (s.withBr x).cp = s.cp ∧ (s.withBr x).ep = s.ep ∧ (s.withBr x).cfg = s.cfg ∧
    (s.withBr x).freeCtr = s.freeCtr := by
  refine ⟨rfl, rfl, rfl, rfl, rfl, rfl, rfl, rfl, rfl, rfl, rfl, rfl, rfl, rfl, rfl, rfl, rfl, rfl, rfl, rfl⟩

@[simp] theorem State.withHdr_fields (x : Hdr) :
    (s.withHdr x).br = s.br ∧ (s.withHdr x).hdr = x ∧ (s.withHdr x).frm = s.frm ∧ (s.withHdr x).ses = s.ses ∧
    (s.withHdr x).eq = s.eq ∧ (s.withHdr x).sf = s.sf ∧ (s.withHdr x).outSink = s.outSink ∧ (s.withHdr x).st = s.st ∧
    (s.withHdr x).fb = s.fb ∧ (s.withHdr x).res = s.res ∧ (s.withHdr x).ov = s.ov ∧ (s.withHdr x).made = s.made ∧
    (s.withHdr x).tr = s.tr ∧ (s.withHdr x).seq = s.seq ∧ (s.withHdr x).src = s.src ∧ (s.withHdr x).sinks = s.sinks ∧
    (s.withHdr x).cp = s.cp ∧ (s.withHdr x).ep = s.ep ∧ (s.withHdr x).cfg = s.cfg ∧
    (s.withHdr x).freeCtr = s.freeCtr := by
  refine ⟨rfl, rfl, rfl, rfl, rfl, rfl, rfl, rfl, rfl, rfl, rfl, rfl, rfl, rfl, rfl, rfl, rfl, rfl, rfl, rfl⟩

@[simp] theorem State.withFrm_fields (x : Frm) :
    (s.withFrm x).br = s.br ∧ (s.withFrm x).hdr = s.hdr ∧ (s.withFrm x).frm = x ∧ (s.withFrm x).ses = s.ses ∧
    (s.withFrm x).eq = s.eq ∧ (s.withFrm x).sf = s.sf ∧ (s.withFrm x).outSink = s.outSink ∧ (s.withFrm x).st = s.st ∧
    (s.withFrm x).fb = s.fb ∧ (s.withFrm x).res = s.res ∧ (s.withFrm x).ov = s.ov ∧ (s.withFrm x).made = s.made ∧
    (s.withFrm x).tr = s.tr ∧ (s.withFrm x).seq = s.seq ∧ (s.withFrm x).src = s.src ∧ (s.withFrm x).sinks = s.sinks ∧
    (s.withFrm x).cp = s.cp ∧ (s.withFrm x).ep = s.ep ∧ (s.withFrm x).cfg = s.cfg ∧
    (s.withFrm x).freeCtr = s.freeCtr := by
  refine ⟨rfl, rfl, rfl, rfl, rfl, rfl, rfl, rfl, rfl, rfl, rfl, rfl, rfl, rfl, rfl, rfl, rfl, rfl, rfl, rfl⟩

@[simp] theorem State.withSes_fields (x : Ses) :
    (s.withSes x).br = s.br ∧ (s.withSes x).hdr = s.hdr ∧ (s.withSes x).frm = s.frm ∧ (s.withSes x).ses = x ∧
    (s.withSes x).eq = s.eq ∧ (s.withSes x).sf = s.sf ∧ (s.withSes x).outSink = s.outSink ∧ (s.withSes x).st = s.st ∧
    (s.withSes x).fb = s.fb ∧ (s.withSes x).res = s.res ∧ (s.withSes x).ov = s.ov ∧ (s.withSes x).made = s.made ∧
    (s.withSes x).tr = s.tr ∧ (s.withSes x).seq = s.seq ∧ (s.withSes x).src = s.src ∧ (s.withSes x).sinks = s.sinks ∧
    (s.withSes x).cp = s.cp ∧ (s.withSes x).ep = s.ep ∧ (s.withSes x).cfg = s.cfg ∧
    (s.withSes x).freeCtr = s.freeCtr := by
  refine ⟨rfl, rfl, rfl, rfl, rfl, rfl, rfl, rfl, rfl, rfl, rfl, rfl, rfl, rfl, rfl, rfl, rfl, rfl, rfl, rfl⟩

@[simp] theorem State.withEq_fields (x : Vector Sample 32) :
    (s.withEq x).br = s.br ∧ (s.withEq x).hdr = s.hdr ∧ (s.withEq x).frm = s.frm ∧ (s.withEq x).ses = s.ses ∧
    (s.withEq x).eq = x ∧ (s.withEq x).sf = s.sf ∧ (s.withEq x).outSink = s.outSink ∧ (s.withEq x).st = s.st ∧
    (s.withEq x).fb = s.fb ∧ (s.withEq x).res = s.res ∧ (s.withEq x).ov = s.ov ∧ (s.withEq x).made = s.made ∧
    (s.withEq x).tr = s.tr ∧ (s.withEq x).seq = s.seq ∧ (s.withEq x).src = s.src ∧ (s.withEq x).sinks = s.sinks ∧
    (s.withEq x).cp = s.cp ∧ (s.withEq x).ep = s.ep ∧ (s.withEq x).cfg = s.cfg ∧
    (s.withEq x).freeCtr = s.freeCtr := by
  refine ⟨rfl, rfl, rfl, rfl, rfl, rfl, rfl, rfl, rfl, rfl, rfl, rfl, rfl, rfl, rfl, rfl, rfl, rfl, rfl, rfl⟩

@[simp] theorem State.withSf_fields (x : Vector SynthFilter 2) :
    (s.withSf x).br = s.br ∧ (s.withSf x).hdr = s.hdr ∧ (s.withSf x).frm = s.frm ∧ (s.withSf x).ses = s.ses ∧
    (s.withSf x).eq = s.eq ∧ (s.withSf x).sf = x ∧ (s.withSf x).outSink = s.outSink ∧ (s.withSf x).st = s.st ∧
    (s.withSf x).fb = s.fb ∧ (s.withSf x).res = s.res ∧ (s.withSf x).ov = s.ov ∧ (s.withSf x).made = s.made ∧
    (s.withSf x).tr = s.tr ∧ (s.withSf x).seq = s.seq ∧ (s.withSf x).src = s.src ∧ (s.withSf x).sinks = s.sinks ∧
    (s.withSf x).cp = s.cp ∧ (s.withSf x).ep = s.ep ∧ (s.withSf x).cfg = s.cfg ∧
    (s.withSf x).freeCtr = s.freeCtr := by
  refine ⟨rfl, rfl, rfl, rfl, rfl, rfl, rfl, rfl, rfl, rfl, rfl, rfl, rfl, rfl, rfl, rfl, rfl, rfl, rfl, rfl⟩

@[simp] theorem State.withOutSink_fields (x : BitVec 8) :
    (s.withOutSink x).br = s.br ∧ (s.withOutSink x).hdr = s.hdr ∧ (s.withOutSink x).frm = s.frm ∧
    (s.withOutSink x).ses = s.ses ∧ (s.withOutSink x).eq = s.eq ∧ (s.withOutSink x).sf = s.sf ∧
    (s.withOutSink x).outSink = x ∧ (s.withOutSink x).st = s.st ∧ (s.withOutSink x).fb = s.fb ∧
    (s.withOutSink x).res = s.res ∧ (s.withOutSink x).ov = s.ov ∧ (s.withOutSink x).made = s.made ∧
    (s.withOutSink x).tr = s.tr ∧ (s.withOutSink x).seq = s.seq ∧ (s.withOutSink x).src = s.src ∧
    (s.withOutSink x).sinks = s.sinks ∧ (s.withOutSink x).cp = s.cp ∧ (s.withOutSink x).ep = s.ep ∧
    (s.withOutSink x).cfg = s.cfg ∧ (s.withOutSink x).freeCtr = s.freeCtr := by
  refine ⟨rfl, rfl, rfl, rfl, rfl, rfl, rfl, rfl, rfl, rfl, rfl, rfl, rfl, rfl, rfl, rfl, rfl, rfl, rfl, rfl⟩

@[simp] theorem State.withSt_fields (x : Status) :
    (s.withSt x).br = s.br ∧ (s.withSt x).hdr = s.hdr ∧ (s.withSt x).frm = s.frm ∧ (s.withSt x).ses = s.ses ∧
    (s.withSt x).eq = s.eq ∧ (s.withSt x).sf = s.sf ∧ (s.withSt x).outSink = s.outSink ∧ (s.withSt x).st = x ∧
    (s.withSt x).fb = s.fb ∧ (s.withSt x).res = s.res ∧ (s.withSt x).ov = s.ov ∧ (s.withSt x).made = s.made ∧
    (s.withSt x).tr = s.tr ∧ (s.withSt x).seq = s.seq ∧ (s.withSt x).src = s.src ∧ (s.withSt x).sinks = s.sinks ∧
    (s.withSt x).cp = s.cp ∧ (s.withSt x).ep = s.ep ∧ (s.withSt x).cfg = s.cfg ∧
    (s.withSt x).freeCtr = s.freeCtr := by
  refine ⟨rfl, rfl, rfl, rfl, rfl, rfl, rfl, rfl, rfl, rfl, rfl, rfl, rfl, rfl, rfl, rfl, rfl, rfl, rfl, rfl⟩

@[simp] theorem State.withFb_fields (x : FrameBuffer) :
    (s.withFb x).br = s.br ∧ (s.withFb x).hdr = s.hdr ∧ (s.withFb x).frm = s.frm ∧ (s.withFb x).ses = s.ses ∧
    (s.withFb x).eq = s.eq ∧ (s.withFb x).sf = s.sf ∧ (s.withFb x).outSink = s.outSink ∧ (s.withFb x).st = s.st ∧
    (s.withFb x).fb = x ∧ (s.withFb x).res = s.res ∧ (s.withFb x).ov = s.ov ∧ (s.withFb x).made = s.made ∧
    (s.withFb x).tr = s.tr ∧ (s.withFb x).seq = s.seq ∧ (s.withFb x).src = s.src ∧ (s.withFb x).sinks = s.sinks ∧
    (s.withFb x).cp = s.cp ∧ (s.withFb x).ep = s.ep ∧ (s.withFb x).cfg = s.cfg ∧
    (s.withFb x).freeCtr = s.freeCtr := by
  refine ⟨rfl, rfl, rfl, rfl, rfl, rfl, rfl, rfl, rfl, rfl, rfl, rfl, rfl, rfl, rfl, rfl, rfl, rfl, rfl, rfl⟩

@[simp] theorem State.withRes_fields (x : List Byte) :
    (s.withRes x).br = s.br ∧ (s.withRes x).hdr = s.hdr ∧ (s.withRes x).frm = s.frm ∧ (s.withRes x).ses = s.ses ∧
    (s.withRes x).eq = s.eq ∧ (s.withRes x).sf = s.sf ∧ (s.withRes x).outSink = s.outSink ∧ (s.withRes x).st = s.st ∧
    (s.withRes x).fb = s.fb ∧ (s.withRes x).res = x ∧ (s.withRes x).ov = s.ov ∧ (s.withRes x).made = s.made ∧
    (s.withRes x).tr = s.tr ∧ (s.withRes x).seq = s.seq ∧ (s.withRes x).src = s.src ∧ (s.withRes x).sinks = s.sinks ∧
    (s.withRes x).cp = s.cp ∧ (s.withRes x).ep = s.ep ∧ (s.withRes x).cfg = s.cfg ∧
    (s.withRes x).freeCtr = s.freeCtr := by
  refine ⟨rfl, rfl, rfl, rfl, rfl, rfl, rfl, rfl, rfl, rfl, rfl, rfl, rfl, rfl, rfl, rfl, rfl, rfl, rfl, rfl⟩

@[simp] theorem State.withOv_fields (x : Vector (Vector (Vector Sample 18) 32) 2) :
    (s.withOv x).br = s.br ∧ (s.withOv x).hdr = s.hdr ∧ (s.withOv x).frm = s.frm ∧ (s.withOv x).ses = s.ses ∧
    (s.withOv x).eq = s.eq ∧ (s.withOv x).sf = s.sf ∧ (s.withOv x).outSink = s.outSink ∧ (s.withOv x).st = s.st ∧
    (s.withOv x).fb = s.fb ∧ (s.withOv x).res = s.res ∧ (s.withOv x).ov = x ∧ (s.withOv x).made = s.made ∧
    (s.withOv x).tr = s.tr ∧ (s.withOv x).seq = s.seq ∧ (s.withOv x).src = s.src ∧ (s.withOv x).sinks = s.sinks ∧
    (s.withOv x).cp = s.cp ∧ (s.withOv x).ep = s.ep ∧ (s.withOv x).cfg = s.cfg ∧
    (s.withOv x).freeCtr = s.freeCtr := by
  refine ⟨rfl, rfl, rfl, rfl, rfl, rfl, rfl, rfl, rfl, rfl, rfl, rfl, rfl, rfl, rfl, rfl, rfl, rfl, rfl, rfl⟩

@[simp] theorem State.withMade_fields (x : Slots) :
    (s.withMade x).br = s.br ∧ (s.withMade x).hdr = s.hdr ∧ (s.withMade x).frm = s.frm ∧ (s.withMade x).ses = s.ses ∧
    (s.withMade x).eq = s.eq ∧ (s.withMade x).sf = s.sf ∧ (s.withMade x).outSink = s.outSink ∧
    (s.withMade x).st = s.st ∧ (s.withMade x).fb = s.fb ∧ (s.withMade x).res = s.res ∧ (s.withMade x).ov = s.ov ∧
    (s.withMade x).made = x ∧ (s.withMade x).tr = s.tr ∧ (s.withMade x).seq = s.seq ∧ (s.withMade x).src = s.src ∧
    (s.withMade x).sinks = s.sinks ∧ (s.withMade x).cp = s.cp ∧ (s.withMade x).ep = s.ep ∧
    (s.withMade x).cfg = s.cfg ∧ (s.withMade x).freeCtr = s.freeCtr := by
  refine ⟨rfl, rfl, rfl, rfl, rfl, rfl, rfl, rfl, rfl, rfl, rfl, rfl, rfl, rfl, rfl, rfl, rfl, rfl, rfl, rfl⟩

@[simp] theorem State.withTr_fields (x : Transient) :
    (s.withTr x).br = s.br ∧ (s.withTr x).hdr = s.hdr ∧ (s.withTr x).frm = s.frm ∧ (s.withTr x).ses = s.ses ∧
    (s.withTr x).eq = s.eq ∧ (s.withTr x).sf = s.sf ∧ (s.withTr x).outSink = s.outSink ∧ (s.withTr x).st = s.st ∧
    (s.withTr x).fb = s.fb ∧ (s.withTr x).res = s.res ∧ (s.withTr x).ov = s.ov ∧ (s.withTr x).made = s.made ∧
    (s.withTr x).tr = x ∧ (s.withTr x).seq = s.seq ∧ (s.withTr x).src = s.src ∧ (s.withTr x).sinks = s.sinks ∧
    (s.withTr x).cp = s.cp ∧ (s.withTr x).ep = s.ep ∧ (s.withTr x).cfg = s.cfg ∧
    (s.withTr x).freeCtr = s.freeCtr := by
  refine ⟨rfl, rfl, rfl, rfl, rfl, rfl, rfl, rfl, rfl, rfl, rfl, rfl, rfl, rfl, rfl, rfl, rfl, rfl, rfl, rfl⟩

@[simp] theorem State.withSeq_fields (x : Sequencer) :
    (s.withSeq x).br = s.br ∧ (s.withSeq x).hdr = s.hdr ∧ (s.withSeq x).frm = s.frm ∧ (s.withSeq x).ses = s.ses ∧
    (s.withSeq x).eq = s.eq ∧ (s.withSeq x).sf = s.sf ∧ (s.withSeq x).outSink = s.outSink ∧ (s.withSeq x).st = s.st ∧
    (s.withSeq x).fb = s.fb ∧ (s.withSeq x).res = s.res ∧ (s.withSeq x).ov = s.ov ∧ (s.withSeq x).made = s.made ∧
    (s.withSeq x).tr = s.tr ∧ (s.withSeq x).seq = x ∧ (s.withSeq x).src = s.src ∧ (s.withSeq x).sinks = s.sinks ∧
    (s.withSeq x).cp = s.cp ∧ (s.withSeq x).ep = s.ep ∧ (s.withSeq x).cfg = s.cfg ∧
    (s.withSeq x).freeCtr = s.freeCtr := by
  refine ⟨rfl, rfl, rfl, rfl, rfl, rfl, rfl, rfl, rfl, rfl, rfl, rfl, rfl, rfl, rfl, rfl, rfl, rfl, rfl, rfl⟩

@[simp] theorem State.withSrc_fields (x : Source) :
    (s.withSrc x).br = s.br ∧ (s.withSrc x).hdr = s.hdr ∧ (s.withSrc x).frm = s.frm ∧ (s.withSrc x).ses = s.ses ∧
    (s.withSrc x).eq = s.eq ∧ (s.withSrc x).sf = s.sf ∧ (s.withSrc x).outSink = s.outSink ∧ (s.withSrc x).st = s.st ∧
    (s.withSrc x).fb = s.fb ∧ (s.withSrc x).res = s.res ∧ (s.withSrc x).ov = s.ov ∧ (s.withSrc x).made = s.made ∧
    (s.withSrc x).tr = s.tr ∧ (s.withSrc x).seq = s.seq ∧ (s.withSrc x).src = x ∧ (s.withSrc x).sinks = s.sinks ∧
    (s.withSrc x).cp = s.cp ∧ (s.withSrc x).ep = s.ep ∧ (s.withSrc x).cfg = s.cfg ∧
    (s.withSrc x).freeCtr = s.freeCtr := by
  refine ⟨rfl, rfl, rfl, rfl, rfl, rfl, rfl, rfl, rfl, rfl, rfl, rfl, rfl, rfl, rfl, rfl, rfl, rfl, rfl, rfl⟩

@[simp] theorem State.withSinks_fields (x : Vector Sink 256) :
    (s.withSinks x).br = s.br ∧ (s.withSinks x).hdr = s.hdr ∧ (s.withSinks x).frm = s.frm ∧
    (s.withSinks x).ses = s.ses ∧ (s.withSinks x).eq = s.eq ∧ (s.withSinks x).sf = s.sf ∧
    (s.withSinks x).outSink = s.outSink ∧ (s.withSinks x).st = s.st ∧ (s.withSinks x).fb = s.fb ∧
    (s.withSinks x).res = s.res ∧ (s.withSinks x).ov = s.ov ∧ (s.withSinks x).made = s.made ∧
    (s.withSinks x).tr = s.tr ∧ (s.withSinks x).seq = s.seq ∧ (s.withSinks x).src = s.src ∧
    (s.withSinks x).sinks = x ∧ (s.withSinks x).cp = s.cp ∧ (s.withSinks x).ep = s.ep ∧ (s.withSinks x).cfg = s.cfg ∧
    (s.withSinks x).freeCtr = s.freeCtr := by
  refine ⟨rfl, rfl, rfl, rfl, rfl, rfl, rfl, rfl, rfl, rfl, rfl, rfl, rfl, rfl, rfl, rfl, rfl, rfl, rfl, rfl⟩

@[simp] theorem State.withCp_fields (x : CommandPort) :
    (s.withCp x).br = s.br ∧ (s.withCp x).hdr = s.hdr ∧ (s.withCp x).frm = s.frm ∧ (s.withCp x).ses = s.ses ∧
    (s.withCp x).eq = s.eq ∧ (s.withCp x).sf = s.sf ∧ (s.withCp x).outSink = s.outSink ∧ (s.withCp x).st = s.st ∧
    (s.withCp x).fb = s.fb ∧ (s.withCp x).res = s.res ∧ (s.withCp x).ov = s.ov ∧ (s.withCp x).made = s.made ∧
    (s.withCp x).tr = s.tr ∧ (s.withCp x).seq = s.seq ∧ (s.withCp x).src = s.src ∧ (s.withCp x).sinks = s.sinks ∧
    (s.withCp x).cp = x ∧ (s.withCp x).ep = s.ep ∧ (s.withCp x).cfg = s.cfg ∧ (s.withCp x).freeCtr = s.freeCtr := by
  refine ⟨rfl, rfl, rfl, rfl, rfl, rfl, rfl, rfl, rfl, rfl, rfl, rfl, rfl, rfl, rfl, rfl, rfl, rfl, rfl, rfl⟩

@[simp] theorem State.withEp_fields (x : EqPort) :
    (s.withEp x).br = s.br ∧ (s.withEp x).hdr = s.hdr ∧ (s.withEp x).frm = s.frm ∧ (s.withEp x).ses = s.ses ∧
    (s.withEp x).eq = s.eq ∧ (s.withEp x).sf = s.sf ∧ (s.withEp x).outSink = s.outSink ∧ (s.withEp x).st = s.st ∧
    (s.withEp x).fb = s.fb ∧ (s.withEp x).res = s.res ∧ (s.withEp x).ov = s.ov ∧ (s.withEp x).made = s.made ∧
    (s.withEp x).tr = s.tr ∧ (s.withEp x).seq = s.seq ∧ (s.withEp x).src = s.src ∧ (s.withEp x).sinks = s.sinks ∧
    (s.withEp x).cp = s.cp ∧ (s.withEp x).ep = x ∧ (s.withEp x).cfg = s.cfg ∧ (s.withEp x).freeCtr = s.freeCtr := by
  refine ⟨rfl, rfl, rfl, rfl, rfl, rfl, rfl, rfl, rfl, rfl, rfl, rfl, rfl, rfl, rfl, rfl, rfl, rfl, rfl, rfl⟩

@[simp] theorem State.withFreeCtr_fields (x : Nat) :
    (s.withFreeCtr x).br = s.br ∧ (s.withFreeCtr x).hdr = s.hdr ∧ (s.withFreeCtr x).frm = s.frm ∧
    (s.withFreeCtr x).ses = s.ses ∧ (s.withFreeCtr x).eq = s.eq ∧ (s.withFreeCtr x).sf = s.sf ∧
    (s.withFreeCtr x).outSink = s.outSink ∧ (s.withFreeCtr x).st = s.st ∧ (s.withFreeCtr x).fb = s.fb ∧
    (s.withFreeCtr x).res = s.res ∧ (s.withFreeCtr x).ov = s.ov ∧ (s.withFreeCtr x).made = s.made ∧
    (s.withFreeCtr x).tr = s.tr ∧ (s.withFreeCtr x).seq = s.seq ∧ (s.withFreeCtr x).src = s.src ∧
    (s.withFreeCtr x).sinks = s.sinks ∧ (s.withFreeCtr x).cp = s.cp ∧ (s.withFreeCtr x).ep = s.ep ∧
    (s.withFreeCtr x).cfg = s.cfg ∧ (s.withFreeCtr x).freeCtr = x := by
  refine ⟨rfl, rfl, rfl, rfl, rfl, rfl, rfl, rfl, rfl, rfl, rfl, rfl, rfl, rfl, rfl, rfl, rfl, rfl, rfl, rfl⟩

/-- Moving the cursor is an update of `BR`. -/
@[simp] theorem State.withPos_eq (p : Nat) : s.withPos p = s.withBr { s.br with pos := BitVec.ofNat 64 p } := rfl

end Sys2Proof.Machine
end

