-- ==== Sys2Proof/Laws/Act.lean ====
section
/-! SUPPORT. How to reason about a command body: the condition under which it ends as wanted, its rules for every way of
building a body, loops, and bodies that keep a relation between the state before and after. -/

-- One theorem after another: threads that wait for each other exhaust the memory limit with their stacks.
set_option Elab.async false

namespace Sys2Proof.Machine

namespace Act

variable {α β : Type}

/-- From s the body a ends with a value and a state that satisfy Q, or raises with a code and a state that satisfy E.
Irreducible, so that elaboration does not run the body. -/
@[irreducible] def Ends (a : Act α) (Q : α → State → Prop) (E : Code → State → Prop) (s : State) : Prop :=
  match a s with
  | .ok v t => Q v t
  | .error e t => E e t

variable {Q : α → State → Prop} {E : Code → State → Prop} {s : State}

@[simp] theorem ends_pure (v : α) : Ends (pure v) Q E s ↔ Q v s := by unfold Ends; rfl

@[simp] theorem ends_throw (e : Code) : Ends (throw e : Act α) Q E s ↔ E e s := by unfold Ends; rfl

@[simp] theorem ends_get {Q : State → State → Prop} : Ends (get : Act State) Q E s ↔ Q s s := by unfold Ends; rfl

@[simp] theorem ends_set {Q : PUnit → State → Prop} (t : State) : Ends (set t : Act PUnit) Q E s ↔ Q ⟨⟩ t := by unfold Ends; rfl

@[simp] theorem ends_modify {Q : PUnit → State → Prop} (f : State → State) :
    Ends (modify f : Act PUnit) Q E s ↔ Q ⟨⟩ (f s) := by unfold Ends; rfl

theorem ends_bind (a : Act α) (k : α → Act β) {Q : β → State → Prop} :
    Ends (a >>= k) Q E s ↔ Ends a (fun v t => Ends (k v) Q E t) E s := by
  unfold Ends
  show (match EStateM.bind a k s with | .ok v t => Q v t | .error e t => E e t) ↔ _
  unfold EStateM.bind
  cases a s <;> rfl

theorem ends_map (f : α → β) (a : Act α) {Q : β → State → Prop} :
    Ends (f <$> a) Q E s ↔ Ends a (fun v t => Q (f v) t) E s := by
  unfold Ends
  show (match EStateM.map f a s with | .ok v t => Q v t | .error e t => E e t) ↔ _
  unfold EStateM.map
  cases a s <;> rfl

theorem ends_ite (c : Prop) [Decidable c] (a b : Act α) :
    Ends (if c then a else b) Q E s ↔ (if c then Ends a Q E s else Ends b Q E s) := by
  split <;> rfl

theorem ends_congr {a b : Act α} (h : a s = b s) : Ends a Q E s ↔ Ends b Q E s := by unfold Ends; rw [h]

/-- What holds of every end holds of the one that happens. -/
theorem Ends.mono {Q' : α → State → Prop} {E' : Code → State → Prop} {a : Act α} (h : Ends a Q E s)
    (hQ : ∀ v t, Q v t → Q' v t) (hE : ∀ e t, E e t → E' e t) : Ends a Q' E' s := by
  unfold Ends at *
  cases ha : a s <;> simp only [ha] at h ⊢
  · exact hQ _ _ h
  · exact hE _ _ h

/-! ## Bodies that keep a relation -/

/-- However the body ends, R holds between the state before and the state after. -/
def Keeps (R : State → State → Prop) (a : Act α) : Prop := ∀ s, Ends a (fun _ t => R s t) (fun _ t => R s t) s

variable {R : State → State → Prop}

theorem keeps_pure (hr : ∀ s, R s s) (v : α) : Keeps R (pure v) := fun s => (ends_pure v).mpr (hr s)

theorem keeps_throw (hr : ∀ s, R s s) (e : Code) : Keeps R (throw e : Act α) := fun s => (ends_throw e).mpr (hr s)

theorem keeps_get (hr : ∀ s, R s s) : Keeps R (get : Act State) := fun s => ends_get.mpr (hr s)

theorem keeps_modify {f : State → State} (h : ∀ s, R s (f s)) : Keeps R (modify f : Act PUnit) := fun s =>
  (ends_modify f).mpr (h s)

theorem keeps_bind (ht : ∀ s t u, R s t → R t u → R s u) {a : Act α} {k : α → Act β} (ha : Keeps R a)
    (hk : ∀ v, Keeps R (k v)) : Keeps R (a >>= k) := fun s =>
  (ends_bind a k).mpr <| (ha s).mono
    (fun v t h => (hk v t).mono (fun _ _ h' => ht _ _ _ h h') fun _ _ h' => ht _ _ _ h h') fun _ _ h => h

theorem keeps_ite {c : Prop} [Decidable c] {a b : Act α} (ha : Keeps R a) (hb : Keeps R b) :
    Keeps R (if c then a else b) := by split <;> assumption

/-- A body that first looks at the state. -/
theorem keeps_get_bind (ht : ∀ s t u, R s t → R t u → R s u) (hr : ∀ s, R s s) {k : State → Act β}
    (hk : ∀ v, Keeps R (k v)) : Keeps R (get >>= k) := keeps_bind ht (keeps_get hr) hk

theorem keeps_forEach (hr : ∀ s, R s s) (ht : ∀ s t u, R s t → R t u → R s u) {f : Nat → Act Unit}
    (h : ∀ i, Keeps R (f i)) (n : Nat) : Keeps R (forEach n f) := by
  unfold forEach
  induction List.range n with
  | nil => exact keeps_pure hr ()
  | cons i l ih => exact keeps_bind ht (h i) fun _ => ih

/-- A loop of bodies, round by round: what holds after i rounds leads to what holds after i + 1, or to an end by E. -/
theorem ends_forEach {P : Nat → State → Prop} {E : Code → State → Prop} {f : Nat → Act Unit} {n : Nat} {s : State}
    (h0 : P 0 s) (h : ∀ i < n, ∀ t, P i t → Ends (f i) (fun _ u => P (i + 1) u) E t) :
    Ends (forEach n f) (fun _ t => P n t) E s := by
  have key : ∀ m i t, i + m = n → P i t → Ends ((List.range' i m).forM f) (fun _ u => P n u) E t := by
    intro m
    induction m with
    | zero => intro i t hi hp; obtain rfl : i = n := by omega
              exact (ends_pure ()).mpr hp
    | succ m ih =>
      intro i t hi hp
      exact (ends_bind ..).mpr ((h i (by omega) t hp).mono (fun _ u hu => ih (i + 1) u (by omega) hu) fun _ _ he => he)
  unfold forEach
  rw [List.range_eq_range']
  exact key n 0 s (by omega) h0

end Act

/-! ## Loops -/

/-- A loop keeps what each of its rounds keeps. -/
theorem loop_keeps {σ : Type} {R : σ → σ → Prop} (hr : ∀ s, R s s) (ht : ∀ s t u, R s t → R t u → R s u)
    {f : Nat → σ → σ} (h : ∀ i s, R s (f i s)) (n : Nat) (s : σ) : R s (loop n f s) := by
  unfold loop
  induction List.range n generalizing s with
  | nil => exact hr s
  | cons i l ih => exact ht _ _ _ (h i s) (ih _)

/-- One more round. -/
theorem loop_succ {σ : Type} (n : Nat) (f : Nat → σ → σ) (s : σ) : loop (n + 1) f s = f n (loop n f s) := by
  simp [loop, List.range_succ]

@[simp] theorem loop_zero {σ : Type} (f : Nat → σ → σ) (s : σ) : loop 0 f s = s := rfl

/-- A loop that keeps a property of the state, round by round. -/
theorem loop_induct {σ : Type} {P : Nat → σ → Prop} {f : Nat → σ → σ} {n : Nat} {s : σ} (h0 : P 0 s)
    (h : ∀ i t, i < n → P i t → P (i + 1) (f i t)) : P n (loop n f s) := by
  have key : ∀ m, m ≤ n → P m (loop m f s) := by
    intro m
    induction m with
    | zero => intro _; exact h0
    | succ m ih => intro hm; rw [loop_succ]; exact h m _ (by omega) (ih (by omega))
  exact key n (Nat.le_refl n)

/-! ## The shared ends of a command -/

/-- A command ends with its body's value, or with the raised code and the value 0 (R124, R473). -/
theorem runCommand_of_ends {body : Act (BitVec 32)} {s : State} {Q : BitVec 32 → State → Prop}
    {E : Code → State → Prop} (h : Act.Ends body Q E (startCommand s)) :
    (∃ v t, Q v t ∧ runCommand body s = endCommand .ok v t) ∨
      ∃ e t, E e t ∧ runCommand body s = endCommand e 0 t := by
  unfold Act.Ends at h
  unfold runCommand
  cases hb : body (startCommand s) with
  | ok v t => rw [hb] at h; exact .inl ⟨v, t, h, rfl⟩
  | error e t => rw [hb] at h; exact .inr ⟨e, t, h, rfl⟩

@[simp] theorem cursorCheck_ends {Q : Unit → State → Prop} {E : Code → State → Prop} {s : State} (n : Nat) :
    Act.Ends (cursorCheck n) Q E s ↔ if n < 2 ^ 64 then Q () s else E .illegalCommand s := by
  unfold cursorCheck
  rw [Act.ends_ite]
  simp only [Act.ends_pure, Act.ends_throw]

end Sys2Proof.Machine
end

