-- ==== Sys2Proof/Laws/Header.lean ====
section
/-! SUPPORT. The fields of a word and the word of its fields are inverse to each other: header words (R131) and command
words (R121). -/

-- One theorem after another: threads that wait for each other exhaust the memory limit with their stacks.
set_option Elab.async false

namespace Sys2Proof

/-- Every bit of a header word belongs to one field. -/
theorem join_split (w : HeaderWord) : joinHeader (splitHeader w) = w := by
  unfold joinHeader splitHeader
  dsimp only
  simp (disch := decide) only [BitVec.extractLsb'_append_extractLsb'_eq_extractLsb']
  exact BitVec.extractLsb'_eq_self

/-- Every field comes back from its word. -/
theorem split_join (h : HeaderFields) : splitHeader (joinHeader h) = h := by
  obtain ⟨sync, version, layer, prot, bitrate, rate, padding, priv, mode, ext, copy, orig, emphasis⟩ := h
  have key (p n : Nat) : (joinHeader ⟨sync, version, layer, prot, bitrate, rate, padding, priv, mode, ext, copy, orig,
      emphasis⟩).extractLsb' p n =
        BitVec.extractLsb' (n := 11 + 2 + 2 + 1 + 4 + 2 + 1 + 1 + 2 + 2 + 1 + 1 + 2) p n
          (sync ++ version ++ layer ++ prot ++ bitrate ++ rate ++ padding ++ priv ++ mode ++ ext ++ copy ++ orig ++
            emphasis) := rfl
  unfold splitHeader
  simp only [key]
  simp (disch := decide) only [BitVec.extractLsb'_append_eq_of_le, BitVec.extractLsb'_append_eq_of_add_le,
    BitVec.extractLsb'_eq_self, Nat.reduceSub]

section
variable (op a : BitVec 8) (d : BitVec 32) (w : CmdWord)

theorem extract_cmdWord (p n : Nat) :
    (cmdWord op a d).extractLsb' p n =
      BitVec.extractLsb' (n := 8 + 8 + 16 + 32) p n (op ++ a ++ 0#16 ++ d) := rfl

@[simp] theorem cmdOp_cmdWord : cmdOp (cmdWord op a d) = op := by
  rw [cmdOp, extract_cmdWord]
  simp (disch := decide) only [BitVec.extractLsb'_append_eq_of_le, BitVec.extractLsb'_eq_self, Nat.reduceSub]

@[simp] theorem cmdA_cmdWord : cmdA (cmdWord op a d) = a := by
  rw [cmdA, extract_cmdWord]
  simp (disch := decide) only [BitVec.extractLsb'_append_eq_of_le, BitVec.extractLsb'_append_eq_of_add_le,
    BitVec.extractLsb'_eq_self, Nat.reduceSub]

@[simp] theorem cmdRsv_cmdWord : cmdRsv (cmdWord op a d) = 0 := by
  rw [cmdRsv, extract_cmdWord]
  simp (disch := decide) only [BitVec.extractLsb'_append_eq_of_le, BitVec.extractLsb'_append_eq_of_add_le,
    BitVec.extractLsb'_eq_self, Nat.reduceSub]
  rfl

@[simp] theorem cmdD_cmdWord : cmdD (cmdWord op a d) = d := by
  rw [cmdD, extract_cmdWord]
  simp (disch := decide) only [BitVec.extractLsb'_append_eq_of_add_le, BitVec.extractLsb'_eq_self]

/-- A command word without reserved bits is the word of its fields. -/
theorem cmdWord_fields (h : cmdRsv w = 0) : cmdWord (cmdOp w) (cmdA w) (cmdD w) = w := by
  unfold cmdWord
  rw [show (0#16 : BitVec 16) = cmdRsv w from h.symm]
  unfold cmdOp cmdA cmdRsv cmdD
  simp (disch := decide) only [BitVec.extractLsb'_append_extractLsb'_eq_extractLsb']
  exact BitVec.extractLsb'_eq_self

end

end Sys2Proof
end

