-- ==== Sys2Proof/Laws/Vec.lean ====
section
/-! SUPPORT. The laws of the vector operations: what a read gives after a table or a write. -/

-- One theorem after another: threads that wait for each other exhaust the memory limit with their stacks.
set_option Elab.async false

namespace Sys2Proof.Machine

variable {α : Type} [Inhabited α] {n : Nat}

theorem rd_eq_get (v : Vector α n) (i : Nat) (h : i < n) : rd v i = v[i] := by
  simp [rd, List.getD, h]

theorem rd_out (v : Vector α n) (i : Nat) (h : n ≤ i) : rd v i = default := by
  simp [rd, List.getD, h]

@[simp] theorem rd_tab (f : Nat → α) (i : Nat) (h : i < n) : rd (tab n f) i = f i := by
  rw [rd_eq_get _ _ h]
  simp [tab]

@[simp] theorem rd_replicate (x : α) (i : Nat) (h : i < n) : rd (Vector.replicate n x) i = x := by
  rw [rd_eq_get _ _ h]
  simp

theorem rd_wr (v : Vector α n) (i j : Nat) (x : α) : rd (wr v i x) j = if i = j ∧ j < n then x else rd v j := by
  by_cases hj : j < n
  · rw [rd_eq_get _ _ hj, rd_eq_get _ _ hj]
    simp only [wr]
    rw [Vector.getElem_setIfInBounds]
    simp [hj]
  · rw [rd_out _ _ (by omega), rd_out _ _ (by omega)]
    simp [hj]

@[simp] theorem rd_wr_self (v : Vector α n) (i : Nat) (x : α) (h : i < n) : rd (wr v i x) i = x := by
  simp [rd_wr, h]

@[simp] theorem rd_wr_other (v : Vector α n) (i j : Nat) (x : α) (h : i ≠ j) : rd (wr v i x) j = rd v j := by
  simp [rd_wr, h]

theorem rd_upd (v : Vector α n) (i j : Nat) (f : α → α) :
    rd (upd v i f) j = if i = j ∧ j < n then f (rd v i) else rd v j := rd_wr v i j _

/-- Two vectors that read alike are equal. -/
theorem vec_ext {v w : Vector α n} (h : ∀ i < n, rd v i = rd w i) : v = w := by
  apply Vector.ext
  intro i hi
  rw [← rd_eq_get v i hi, ← rd_eq_get w i hi]
  exact h i hi

/-- A vector is the table of its reads. -/
theorem tab_rd (v : Vector α n) : tab n (rd v) = v := vec_ext fun i hi => rd_tab _ i hi

/-! ## Bit strings (R82, R83) -/

theorem bitsAt_zero (bytes : List Byte) (p : Nat) : bitsAt bytes p 0 = 0 := rfl

theorem bitAt_drop (bytes : List Byte) (q k : Nat) : bitAt (bytes.drop q) k = bitAt bytes (8 * q + k) := by
  have h : (8 * q + k) / 8 = q + k / 8 := by omega
  have h' : (8 * q + k) % 8 = k % 8 := by omega
  simp [bitAt, List.getD, h, h']

/-- One bit more at the end. -/
theorem bitsAt_succ (bytes : List Byte) (p n : Nat) :
    bitsAt bytes p (n + 1) = 2 * bitsAt bytes p n + (bitAt bytes (p + n)).toNat := by
  have h : 8 * (p / 8) + (p % 8 + n) = p + n := by omega
  simp [bitsAt, List.range_succ, bitAt_drop, h]

/-- A bit field depends on its own bits only. -/
theorem bitsAt_congr {a b : List Byte} {p : Nat} (n : Nat) (h : ∀ k, p ≤ k → k < p + n → bitAt a k = bitAt b k) :
    bitsAt a p n = bitsAt b p n := by
  induction n with
  | zero => simp [bitsAt_zero]
  | succ n ih =>
    rw [bitsAt_succ, bitsAt_succ, ih fun k h1 h2 => h k h1 (by omega), h (p + n) (by omega) (by omega)]

theorem bitsAt_lt (bytes : List Byte) (p n : Nat) : bitsAt bytes p n < 2 ^ n := by
  induction n with
  | zero => simp [bitsAt_zero]
  | succ n ih =>
    rw [bitsAt_succ, Nat.pow_succ]
    have : (bitAt bytes (p + n)).toNat ≤ 1 := by cases bitAt bytes (p + n) <;> simp
    omega

end Sys2Proof.Machine
end

