-- ==== Sys2Proof/Laws/Synth.lean ====
section
/-! SUPPORT. What the equalizer writer and the synthesis calls can do. -/

-- One theorem after another: threads that wait for each other exhaust the memory limit with their stacks.
set_option Elab.async false

namespace Sys2Proof.Machine

open Act

/-! ## Frames -/

theorem EqwFrame.refl (s : State) : EqwFrame s s := by constructor <;> intros <;> rfl

theorem EqwFrame.trans (s t u : State) (h : EqwFrame s t) (k : EqwFrame t u) : EqwFrame s u := by
  have hv : ∀ ch < 2, (rd u.sf ch).v = (rd s.sf ch).v := fun ch hc => (k.history ch hc).trans (h.history ch hc)
  cases h; cases k
  constructor <;> first | exact hv | simp only [*]

theorem SynthFrame.refl (s : State) : SynthFrame s s := by constructor <;> rfl

theorem SynthFrame.trans (s t u : State) (h : SynthFrame s t) (k : SynthFrame t u) : SynthFrame s u := by
  have ht : { u.tr with sbs := s.tr.sbs } = s.tr := by
    have h1 := h.tr
    rw [← k.tr] at h1
    exact h1
  cases h; cases k
  constructor <;> first | exact ht | simp only [*]

theorem SynthFrame.of_eqw {s t : State} (h : EqwFrame s t) : SynthFrame s t := by
  have ht : { t.tr with sbs := s.tr.sbs } = s.tr := by rw [h.tr]
  cases h
  constructor <;> assumption

/-! ## The equalizer writer (R102, R103, R495) -/

/-- `EQ_SETBAND` refuses what is no band and what is no number, and else stores the clamped value. -/
theorem eqSetband_eq (band : BitVec 8) (value : BitVec 32) (s : State) :
    eqSetbandBody band value s =
      if 32 ≤ band.toNat ∨ Num.isNaN (bandValue s value) = true then .error .bandOutOfRange s
      else .ok 0 (s.withEq (wr s.eq band.toNat (clampUnit (bandValue s value)))) := by
  unfold eqSetbandBody
  by_cases hb : 32 ≤ band.toNat
  · rw [if_pos hb, if_pos (.inl hb)]
    rfl
  · rw [if_neg hb]
    show setBand band.toNat (bandValue s value) s = _
    unfold setBand
    cases Num.isNaN (bandValue s value) <;> simp [hb] <;> rfl

theorem eqSetband_ok {band : BitVec 8} {value : BitVec 32} {s t : State} {v : BitVec 32}
    (h : eqSetbandBody band value s = .ok v t) :
    v = 0 ∧ band.toNat < 32 ∧ Num.isNaN (bandValue s value) = false ∧
      t = s.withEq (wr s.eq band.toNat (clampUnit (bandValue s value))) := by
  rw [eqSetband_eq] at h
  split at h
  · cases h
  · rename_i hn
    cases h
    push Not at hn
    exact ⟨rfl, hn.1, by simpa using hn.2, rfl⟩

theorem eqSetband_error {band : BitVec 8} {value : BitVec 32} {s t : State} {e : Code}
    (h : eqSetbandBody band value s = .error e t) :
    e = .bandOutOfRange ∧ t = s ∧ (32 ≤ band.toNat ∨ Num.isNaN (bandValue s value) = true) := by
  rw [eqSetband_eq] at h
  split at h
  · rename_i hn
    cases h
    exact ⟨rfl, rfl, hn⟩
  · cases h

/-- A change of the equalizer values and of the port alone. -/
theorem eqw_withEq (s : State) (x : Vector Sample 32) : EqwFrame s (s.withEq x) := by
  constructor <;> intros <;> rfl

theorem eqw_withEp (s : State) (x : EqPort) : EqwFrame s (s.withEp x) := by
  constructor <;> intros <;> rfl

/-- The end of a command of the equalizer port writes the port and the latched result. -/
theorem eqw_end (code : Code) (s : State) : EqwFrame s (endEqCommand code s) := by
  constructor <;> intros <;> rfl

theorem applyFactors_sf (ch c : Nat) (s : State) :
    rd (applyFactors ch s).sf c =
      if ch = c ∧ c < 2 then { rd s.sf c with eqf := bandFactors s } else rd s.sf c := by
  unfold applyFactors
  simp only [State.withSf_fields, rd_upd]
  split
  · rename_i h; rw [h.1]
  · rfl

theorem eqw_applyFactors (ch : Nat) (s : State) : EqwFrame s (applyFactors ch s) := by
  have hv : ∀ c < 2, (rd (applyFactors ch s).sf c).v = (rd s.sf c).v := by
    intro c hc
    rw [applyFactors_sf]
    split <;> rfl
  constructor <;> first | exact hv | rfl

/-- A command on the equalizer port is an `EQ_SETBAND`, an `EQ_APPLY`, or illegal there. -/
theorem eqwPerform_cases (i : Instr) (s : State) :
    (∃ band value, i = .eqSetband band value ∧ eqwPerform i s = eqwFinish (eqSetbandBody band value s)) ∨
      (i = .eqApply ∧ eqwPerform i s = (applyFactors 0 s).withEp { s.ep with halfApplied := true }) ∨
      eqwPerform i s = endEqCommand .illegalCommand s := by
  cases i
  case eqSetband band value => exact .inl ⟨band, value, rfl, rfl⟩
  case eqApply => exact .inr (.inl ⟨rfl, rfl⟩)
  all_goals exact .inr (.inr rfl)

/-- An `EQ_SETBAND` on the equalizer port sets the clamped value or changes nothing but the port. -/
theorem eqwFinish_cases (band : BitVec 8) (value : BitVec 32) (s : State) :
    (band.toNat < 32 ∧ Num.isNaN (bandValue s value) = false ∧
      eqwFinish (eqSetbandBody band value s) =
        endEqCommand .ok (s.withEq (wr s.eq band.toNat (clampUnit (bandValue s value))))) ∨
      eqwFinish (eqSetbandBody band value s) = endEqCommand .bandOutOfRange s := by
  cases h : eqSetbandBody band value s with
  | ok v t =>
    obtain ⟨-, hb, hn, rfl⟩ := eqSetband_ok h
    exact .inl ⟨hb, hn, rfl⟩
  | error e t =>
    obtain ⟨rfl, rfl, -⟩ := eqSetband_error h
    exact .inr rfl

theorem eqw_perform (i : Instr) (s : State) : EqwFrame s (eqwPerform i s) := by
  obtain ⟨band, value, -, h⟩ | ⟨-, h⟩ | h := eqwPerform_cases i s <;> rw [h]
  · obtain ⟨-, -, k⟩ | k := eqwFinish_cases band value s <;> rw [k]
    · exact (eqw_withEq _ _).trans _ _ _ (eqw_end _ _)
    · exact eqw_end _ _
  · exact (eqw_applyFactors _ _).trans _ _ _ (eqw_withEp _ _)
  · exact eqw_end _ _

theorem eqw_accept (w : CmdWord) (rest : List CmdWord) (s : State) : EqwFrame s (eqwAccept w rest s) :=
  (eqw_withEp s _).trans _ _ _ (eqw_perform _ _)

/-- A step of `EQW` writes equalizer values, coefficients, its own port and the latched result. -/
theorem eqw_step (s : State) : EqwFrame s (eqwStep s) := by
  unfold eqwStep
  split
  · exact ((eqw_applyFactors 1 s).trans _ _ _ (eqw_withEp _ _)).trans _ _ _ (eqw_end _ _)
  · split
    · exact EqwFrame.refl s
    · exact eqw_accept _ _ s

theorem eqw_steps (k : Nat) (s : State) : EqwFrame s (eqwSteps k s) := by
  induction k generalizing s with
  | zero => exact EqwFrame.refl s
  | succ k ih => exact (eqw_step s).trans _ _ _ (ih _)

/-- At a boundary nothing else changes. -/
theorem eqw_boundary (s : State) : EqwFrame s (eqBoundary s) := by
  unfold eqBoundary
  split
  · exact EqwFrame.refl s
  · exact (eqw_withEp s _).trans _ _ _ (eqw_steps _ _)

/-- Without a schedule nothing happens at a boundary. -/
@[simp] theorem eqBoundary_idle {s : State} (h : s.ep.schedule = []) : eqBoundary s = s := by
  unfold eqBoundary; rw [h]

/-! ## Equalizer values stay in range (R31, R235) -/

theorem clampUnit_range (v : Sample) :
    Num.le Num.minusOne (clampUnit v) = true ∧ Num.le (clampUnit v) Num.one = true := by
  unfold clampUnit
  split
  · decide
  · split
    · decide
    · simp_all

/-- The relation between states that keeps the range of the equalizer values. -/
def KeepsEq (s t : State) : Prop := EqInv s → EqInv t

theorem keepsEq_withEq {k : Nat} {v : Sample} {s : State} : KeepsEq s (s.withEq (wr s.eq k (clampUnit v))) := by
  intro hi i hi'
  simp only [State.withEq_fields, rd_wr]
  split
  · exact clampUnit_range v
  · exact hi i hi'

theorem keepsEq_perform (i : Instr) (s : State) : KeepsEq s (eqwPerform i s) := by
  obtain ⟨band, value, -, h⟩ | ⟨-, h⟩ | h := eqwPerform_cases i s <;> rw [h]
  · obtain ⟨-, -, k⟩ | k := eqwFinish_cases band value s <;> rw [k]
    · exact keepsEq_withEq
    · exact id
  · exact id
  · exact id

theorem keepsEq_accept (w : CmdWord) (rest : List CmdWord) (s : State) : KeepsEq s (eqwAccept w rest s) :=
  fun h => keepsEq_perform (decodeCommand w) (s.withEp { s.ep with queue := rest }) h

theorem keepsEq_step (s : State) : KeepsEq s (eqwStep s) := by
  unfold eqwStep
  split
  · exact id
  · split
    · exact id
    · exact keepsEq_accept _ _ s

theorem keepsEq_steps (k : Nat) (s : State) : KeepsEq s (eqwSteps k s) := by
  induction k generalizing s with
  | zero => exact id
  | succ k ih => exact fun h => ih _ (keepsEq_step s h)

theorem keepsEq_boundary (s : State) : KeepsEq s (eqBoundary s) := by
  unfold eqBoundary
  split
  · exact id
  · exact fun h => keepsEq_steps _ _ h

/-! ## The result registers stay legal (R471) -/

theorem code_legal (e : Code) (h : e ≠ .huffmanTableError) (k : e ≠ .reservoirUnderrun) :
    e.toByte ∈ [0, 1, 2, 3, 4, 5, 8, 9, 10].map (BitVec.ofNat 8) := by
  cases e <;> first | exact absurd rfl h | exact absurd rfl k | decide

/-- A result of the equalizer port is one of R471; the warning of the running command stays. -/
theorem stInv_end {e : Code} (h : e ≠ .huffmanTableError) (k : e ≠ .reservoirUnderrun) (s : State) (hs : StInv s) :
    StInv (endEqCommand e s) := ⟨code_legal e h k, by simp [endEqCommand, latchResult], hs.first⟩

theorem stInv_perform (i : Instr) (s : State) (hs : StInv s) : StInv (eqwPerform i s) := by
  obtain ⟨band, value, -, h⟩ | ⟨-, h⟩ | h := eqwPerform_cases i s <;> rw [h]
  · obtain ⟨-, -, k⟩ | k := eqwFinish_cases band value s <;> rw [k]
    · exact stInv_end (by decide) (by decide) (s.withEq _) ⟨hs.code, hs.warn, hs.first⟩
    · exact stInv_end (by decide) (by decide) s hs
  · exact ⟨hs.code, hs.warn, hs.first⟩
  · exact stInv_end (by decide) (by decide) s hs

theorem stInv_step (s : State) (hs : StInv s) : StInv (eqwStep s) := by
  unfold eqwStep
  split
  · exact stInv_end (by decide) (by decide) (State.withEp (applyFactors 1 s) _) ⟨hs.code, hs.warn, hs.first⟩
  · split
    · exact hs
    · exact stInv_perform _ (s.withEp _) ⟨hs.code, hs.warn, hs.first⟩

theorem stInv_steps (k : Nat) (s : State) (hs : StInv s) : StInv (eqwSteps k s) := by
  induction k generalizing s with
  | zero => exact hs
  | succ k ih => exact ih _ (stInv_step s hs)

theorem stInv_boundary (s : State) (hs : StInv s) : StInv (eqBoundary s) := by
  unfold eqBoundary
  split
  · exact hs
  · exact stInv_steps _ (s.withEp _) ⟨hs.code, hs.warn, hs.first⟩

/-! ## Sinks -/

theorem rd_onSink (f : Sink → Sink) (s : State) (k : Nat) (hk : k < 256) :
    rd (onSink f s).sinks k =
      if s.outSink ≠ 0 ∧ k = s.outSink.toNat then f (rd s.sinks k) else rd s.sinks k := by
  unfold onSink
  by_cases h : s.outSink = 0
  · simp [h]
  · simp only [h, if_false, State.withSinks_fields, rd_upd]
    by_cases hk' : s.outSink.toNat = k
    · subst hk'
      rw [if_pos ⟨rfl, hk⟩, if_pos ⟨h, rfl⟩]
    · rw [if_neg (by tauto), if_neg (by tauto)]

/-- The null sink is never written. -/
theorem null_onSink (f : Sink → Sink) (s : State) : rd (onSink f s).sinks 0 = rd s.sinks 0 := by
  rw [rd_onSink _ _ _ (by decide)]
  split
  · rename_i h
    exact absurd (BitVec.eq_of_toNat_eq (by simpa using h.2.symm)) h.1
  · rfl

theorem onSink_fields (f : Sink → Sink) (s : State) : onSink f s = s.withSinks (onSink f s).sinks := by
  unfold onSink
  split <;> rfl

/-- Samples appended to the bound sink add two bytes each to its size (R36, R95). -/
theorem sinkSize_append {ch : Nat} (xs : List Pcm) {s : State} (hch : ch < 2) (h : s.outSink ≠ 0) :
    (sinkAppend ch xs s).sinkSize s.outSink.toNat = s.sinkSize s.outSink.toNat + 2 * xs.length := by
  have hk : s.outSink.toNat < 256 := s.outSink.isLt
  unfold State.sinkSize sinkAppend
  rw [rd_onSink _ _ _ hk, if_pos ⟨h, rfl⟩]
  unfold Sink.currentSize
  rw [rd_upd, rd_upd]
  rcases (by omega : ch = 0 ∨ ch = 1) with rfl | rfl <;> simp <;> omega

/-- A cleared sink has no bytes. -/
theorem sinkSize_clear {s : State} (h : s.outSink ≠ 0) : (sinkClear s).sinkSize s.outSink.toNat = 0 := by
  have hk : s.outSink.toNat < 256 := s.outSink.isLt
  unfold State.sinkSize sinkClear
  rw [rd_onSink _ _ _ hk, if_pos ⟨h, rfl⟩]
  rfl

/-! ## Synthesis calls (R250) -/

theorem synthFrame_withSf (s : State) (x : Vector SynthFilter 2) : SynthFrame s (s.withSf x) := by constructor <;> rfl

theorem synthFrame_withSinks (s : State) (x : Vector Sink 256) : SynthFrame s (s.withSinks x) := by
  constructor <;> rfl

theorem synthFrame_onSink (f : Sink → Sink) (s : State) : SynthFrame s (onSink f s) := by
  rw [onSink_fields]; exact synthFrame_withSinks s _

theorem synthCall_frame (ch : Nat) (s : State) : SynthFrame s (synthCall ch s) :=
  SynthFrame.trans _ _ _ (synthFrame_withSf s _) (synthFrame_onSink _ _)

theorem synth_frame (ch : Nat) (s : State) : SynthFrame s (synth ch s) :=
  SynthFrame.trans _ _ _ (SynthFrame.of_eqw (eqw_boundary s)) (synthCall_frame ch _)

/-- The state in which a call's input stands in `SBS`. -/
theorem synthFrame_sbs (s : State) (x : Vector (Vector Sample 32) 2) :
    SynthFrame s (s.withTr { s.tr with sbs := x }) := by
  constructor <;> rfl

theorem feedSynth_frame (ch : Nat) (x : Vector Sample 32) (s : State) : SynthFrame s (feedSynth ch x s) :=
  SynthFrame.trans _ _ _ (synthFrame_sbs s _) (synth_frame ch _)

/-- Feeding one set is one synthesis call with it. -/
theorem feedSynth_fedOnce (ch : Nat) (x : Nat → Sample) (s : State) : FedOnce ch x s (feedSynth ch (tab 32 x) s) :=
  ⟨tab 32 x, fun _ h => rd_tab _ _ h, rfl⟩

/-- Feeding `GRID` to the filters is nothing but synthesis calls. -/
theorem feedGrid_frame (n nch : Nat) (s : State) : SynthFrame s (feedGrid n nch s) :=
  loop_keeps SynthFrame.refl SynthFrame.trans
    (fun _ _ => loop_keeps SynthFrame.refl SynthFrame.trans (fun _ _ => feedSynth_frame _ _ _) _ _) _ _

theorem feedHybrid_frame (ch : Nat) (s : State) : SynthFrame s (feedHybrid ch s) :=
  loop_keeps SynthFrame.refl SynthFrame.trans (fun _ _ => feedSynth_frame _ _ _) _ _

/-- What synthesis calls keep: the range of the equalizer values, the null sink and legal result registers. -/
def SynthKeeps (s t : State) : Prop := KeepsEq s t ∧ rd t.sinks 0 = rd s.sinks 0 ∧ (StInv s → StInv t)

theorem SynthKeeps.refl (s : State) : SynthKeeps s s := ⟨id, rfl, id⟩
theorem SynthKeeps.trans (s t u : State) (h : SynthKeeps s t) (k : SynthKeeps t u) : SynthKeeps s u :=
  ⟨k.1 ∘ h.1, k.2.1.trans h.2.1, k.2.2 ∘ h.2.2⟩

/-- What leaves `ST` alone keeps legal result registers. -/
theorem stInv_of_eq {s t : State} (h : t.st = s.st) (hs : StInv s) : StInv t :=
  ⟨h ▸ hs.code, h ▸ hs.warn, h ▸ hs.first⟩

theorem keepsEq_of_eq {s t : State} (h : t.eq = s.eq) : KeepsEq s t := by
  unfold KeepsEq EqInv
  rw [h]
  exact id

theorem onSink_eq (f : Sink → Sink) (s : State) : (onSink f s).eq = s.eq := by
  rw [onSink_fields]; rfl

theorem onSink_st (f : Sink → Sink) (s : State) : (onSink f s).st = s.st := by
  rw [onSink_fields]; rfl

theorem synthKeeps_call (ch : Nat) (s : State) : SynthKeeps s (synthCall ch s) :=
  ⟨keepsEq_of_eq (onSink_eq _ _), null_onSink _ _, stInv_of_eq (onSink_st _ _)⟩

theorem synthKeeps_boundary (s : State) : SynthKeeps s (eqBoundary s) :=
  ⟨keepsEq_boundary s, by rw [(eqw_boundary s).sinks], stInv_boundary s⟩

theorem synthKeeps_feed (ch : Nat) (x : Vector Sample 32) (s : State) : SynthKeeps s (feedSynth ch x s) :=
  SynthKeeps.trans s (s.withTr { s.tr with sbs := wr s.tr.sbs ch x }) _ ⟨id, rfl, stInv_of_eq rfl⟩
    (SynthKeeps.trans _ _ _ (synthKeeps_boundary _) (synthKeeps_call ch _))

theorem synthKeeps_grid (n nch : Nat) (s : State) : SynthKeeps s (feedGrid n nch s) :=
  loop_keeps SynthKeeps.refl SynthKeeps.trans
    (fun _ _ => loop_keeps SynthKeeps.refl SynthKeeps.trans (fun _ _ => synthKeeps_feed _ _ _) _ _) _ _

theorem synthKeeps_hybrid (ch : Nat) (s : State) : SynthKeeps s (feedHybrid ch s) :=
  loop_keeps SynthKeeps.refl SynthKeeps.trans (fun _ _ => synthKeeps_feed _ _ _) _ _

end Sys2Proof.Machine
end

