-- ==== Sys2Proof/Laws/Layer3.lean ====
section
/-! SUPPORT. What decoding the granules of a Layer III frame can do, and what the Layer III selectors can do. -/

-- One theorem after another: threads that wait for each other exhaust the memory limit with their stacks.
set_option Elab.async false

namespace Sys2Proof.Machine

/-! ## The relation -/

theorem Layer3Frame.refl (s : State) : Layer3Frame s s := by constructor <;> rfl

theorem Layer3Frame.trans {s t u : State} (h : Layer3Frame s t) (k : Layer3Frame t u) : Layer3Frame s u := by
  cases h; cases k
  constructor <;> simp only [*]

/-- A granule-stage frame that keeps the invariants of what it may write. -/
structure Granular (s t : State) : Prop where
  frame : Layer3Frame s t
  synth : SynthKeeps s t
  res : s.res.length ≤ resKeep → t.res.length ≤ resKeep

theorem Granular.refl (s : State) : Granular s s := ⟨.refl s, .refl s, id⟩

theorem Granular.trans (s t u : State) (h : Granular s t) (k : Granular t u) : Granular s u :=
  ⟨h.frame.trans k.frame, .trans _ _ _ h.synth k.synth, k.res ∘ h.res⟩

theorem granular_loop {f : Nat → State → State} (h : ∀ i s, Granular s (f i s)) (n : Nat) (s : State) :
    Granular s (loop n f s) := loop_keeps Granular.refl Granular.trans h n s

theorem granular_withTr (s : State) (x : Transient) : Granular s (s.withTr x) :=
  ⟨by constructor <;> rfl, ⟨id, rfl, stInv_of_eq rfl⟩, id⟩

theorem granular_withSeq (s : State) (x : Sequencer) : Granular s (s.withSeq x) :=
  ⟨by constructor <;> rfl, ⟨id, rfl, stInv_of_eq rfl⟩, id⟩

theorem granular_withOv (s : State) (x : Vector (Vector (Vector Sample 18) 32) 2) : Granular s (s.withOv x) :=
  ⟨by constructor <;> rfl, ⟨id, rfl, stInv_of_eq rfl⟩, id⟩

/-- What a synthesis call writes a granule may write. -/
theorem granular_of_synth {s t : State} (h : SynthFrame s t) (k : SynthKeeps s t) : Granular s t where
  frame := by
    cases h
    constructor <;> assumption
  synth := k
  res := by rw [h.res]; exact id

/-! ## Warnings (R486) -/

theorem warn_first (e : Code) (s : State) :
    (warn e s).st.first = if s.st.first = 0 then e.toByte else s.st.first := rfl

theorem warn_warn (e : Code) (s : State) :
    (warn e s).st.warn = if s.st.first = 0 then e.toByte else s.st.warn := rfl

/-- A warning is one of the two codes (R471). -/
theorem stInv_warn {e : Code} (he : e = .huffmanTableError ∨ e = .reservoirUnderrun) (s : State) (hs : StInv s) :
    StInv (warn e s) := by
  refine ⟨hs.code, ?_, ?_⟩
  · rw [warn_warn]
    split
    · obtain rfl | rfl := he <;> decide
    · exact hs.warn
  · rw [warn_first]
    split
    · obtain rfl | rfl := he <;> decide
    · exact hs.first

theorem granular_warn {e : Code} (he : e = .huffmanTableError ∨ e = .reservoirUnderrun) (s : State) :
    Granular s (warn e s) := ⟨by constructor <;> rfl, ⟨id, rfl, stInv_warn he s⟩, id⟩

/-! ## The reservoir (R331, R334) -/

theorem lastN_length {α : Type} (n : Nat) (l : List α) : (lastN n l).length = min n l.length := by
  simp [lastN]; omega

theorem granular_withRes (s : State) (x : List Byte) (h : x.length ≤ resKeep) : Granular s (s.withRes x) :=
  ⟨by constructor <;> rfl, ⟨id, rfl, stInv_of_eq rfl⟩, fun _ => h⟩

/-- The two outcomes of a reservoir step. -/
theorem reservoirStep_eq (s : State) :
    reservoirStep s =
      (if s.underRun then warn .reservoirUnderrun s else s.withTr { s.tr with md := s.window }).withRes
        (lastN resKeep s.workingReservoir) := by
  unfold reservoirStep; rfl

theorem granular_reservoirStep (s : State) : Granular s (reservoirStep s) := by
  rw [reservoirStep_eq]
  have hl : (lastN resKeep s.workingReservoir).length ≤ resKeep := by
    rw [lastN_length]; exact Nat.min_le_left _ _
  generalize lastN resKeep s.workingReservoir = x at hl
  split
  · exact (granular_warn (.inr rfl) s).trans _ _ _ (granular_withRes _ x hl)
  · exact (granular_withTr s _).trans _ _ _ (granular_withRes _ x hl)

/-! ## Scale factors -/

theorem granular_readInto {len : Nat} {store : Nat → State → State} (h : ∀ v s, Granular s (store v s)) (s : State) :
    Granular s (readInto len store s) := (granular_withTr s _).trans _ _ _ (h _ _)

theorem granular_readShortBands (ch lo hi len : Nat) (s : State) : Granular s (readShortBands ch lo hi len s) :=
  granular_loop (fun _ _ => granular_loop (fun _ _ => granular_readInto (fun _ _ => granular_withTr _ _) _) _ _) _ _

theorem granular_clearFactors (gr ch : Nat) (s : State) : Granular s (clearFactors gr ch s) := by
  unfold clearFactors
  split
  · simp only
    split
    · exact (granular_withTr s _).trans _ _ _ (granular_withTr _ _)
    · exact granular_withTr s _
  · exact granular_withTr s _

theorem granular_foldl (ch : Nat) (l : List (Nat × Nat)) (s : State) :
    Granular s (l.foldl (fun t b => readInto b.2 (setLong ch b.1) t) s) := by
  induction l generalizing s with
  | nil => exact .refl s
  | cons b l ih => exact (granular_readInto (fun _ _ => granular_withTr _ _) s).trans _ _ _ (ih _)

theorem granular_readFactorsV1 (gr ch : Nat) (s : State) : Granular s (readFactorsV1 gr ch s) := by
  unfold readFactorsV1
  simp only
  split
  · exact (granular_readShortBands _ _ _ _ s).trans _ _ _ (granular_readShortBands _ _ _ _ _)
  · exact ((granular_loop (fun _ _ => granular_readInto (fun _ _ => granular_withTr _ _) _) 8 s).trans _ _ _
      (granular_readShortBands _ _ _ _ _)).trans _ _ _ (granular_readShortBands _ _ _ _ _)
  all_goals
    exact ((granular_foldl ch _ s).trans _ _ _ (granular_withTr _ _)).trans _ _ _ (granular_withTr _ _)

theorem granular_storeLsf (k : BlockKind) (ch i len v : Nat) (s : State) : Granular s (storeLsf k ch i len v s) := by
  unfold storeLsf
  cases lsfPlace k i <;> dsimp only <;> split <;>
    exact (granular_withTr s _).trans _ _ _ (granular_withTr _ _)

theorem granular_readFactorsLsf (gr ch : Nat) (s : State) : Granular s (readFactorsLsf gr ch s) :=
  (granular_withTr s _).trans _ _ _
    (granular_loop (fun _ _ => granular_readInto (fun _ _ => granular_storeLsf _ _ _ _ _ _) _) _ _)

theorem granular_readScaleFactors (gr ch : Nat) (s : State) : Granular s (readScaleFactors gr ch s) := by
  unfold readScaleFactors
  simp only
  split
  · exact (granular_clearFactors gr ch s).trans _ _ _ (granular_readFactorsV1 _ _ _)
  · exact (granular_clearFactors gr ch s).trans _ _ _ (granular_readFactorsLsf _ _ _)

/-! ## Bands -/

/-- `bandOf` finds only bands that hold the line. -/
theorem bandOf_some {b : List Nat} {first n k sfb : Nat} (h : bandOf b first n k = some sfb) :
    first ≤ sfb ∧ sfb < n ∧ b.getD sfb 0 ≤ k ∧ k < b.getD (sfb + 1) 0 := by
  have hp := List.find?_some h
  have hm := List.mem_of_find?_eq_some h
  simp only [Bool.and_eq_true, decide_eq_true_eq] at hp
  simp only [List.mem_reverse, List.mem_range] at hm
  exact ⟨hp.1.1, hm, hp.1.2, hp.2⟩

/-- `bandOf` finds none only if no band holds the line. -/
theorem bandOf_none {b : List Nat} {first n k : Nat} :
    bandOf b first n k = none ↔ ∀ sfb, first ≤ sfb → sfb < n → b.getD sfb 0 ≤ k → b.getD (sfb + 1) 0 ≤ k := by
  simp only [bandOf, List.find?_eq_none, List.mem_reverse, List.mem_range, Bool.and_eq_true, decide_eq_true_eq, not_and,
    not_lt]
  exact ⟨fun h sfb hf hn hk => h sfb hn ⟨hf, hk⟩, fun h sfb hn hk => h sfb hk.1 hn hk.2⟩

/-- With boundaries that rise, the band that holds a line is the one found (R391). -/
theorem bandOf_ascending {b : List Nat} (hb : Ascending b) {first n k sfb : Nat} (hn : n < b.length) (hf : first ≤ sfb)
    (hs : sfb < n) (hlo : b.getD sfb 0 ≤ k) (hhi : k < b.getD (sfb + 1) 0) : bandOf b first n k = some sfb := by
  have mono (i j : Nat) (hij : i ≤ j) (hj : j < b.length) : b.getD i 0 ≤ b.getD j 0 := by
    obtain rfl | h := Nat.eq_or_lt_of_le hij
    · exact Nat.le_refl _
    · simp only [List.getD_eq_getElem?_getD, List.getElem?_eq_getElem hj, List.getElem?_eq_getElem (Nat.lt_trans h hj)]
      exact Nat.le_of_lt (List.pairwise_iff_getElem.mp hb i j _ _ h)
  cases h : bandOf b first n k with
  | none => exact absurd (bandOf_none.mp h sfb hf hs hlo) (by omega)
  | some c =>
    obtain ⟨_, hc, h1, h2⟩ := bandOf_some h
    rcases Nat.lt_trichotomy c sfb with h | h | h
    · have := mono (c + 1) sfb h (by omega); omega
    · rw [h]
    · have := mono (sfb + 1) c h (by omega); omega

/-! ## Reads of the main-data window -/

/-- Two windows of one length that have the same bits in lo .. stop - 1 (R374). -/
structure SameBits (a b : MainData) (lo stop : Nat) : Prop where
  len : a.len = b.len
  bits : ∀ k, lo ≤ k → k < stop → bitAt a.bytes k = bitAt b.bytes k

theorem mdTake_congr {a b : MainData} {lo stop : Nat} (h : SameBits a b lo stop) {p : Nat} (hp : lo ≤ p) (n : Nat) :
    mdTake a stop p n = mdTake b stop p n := by
  unfold mdTake
  rw [h.len]
  split
  · rename_i hs
    rw [bitsAt_congr n fun k h1 h2 => h.bits k (by omega) (by omega)]
  · rfl

theorem mdTake_bounds {a : MainData} {stop p n v q : Nat} (h : mdTake a stop p n = some (v, q)) : q = p + n ∧ q ≤ stop := by
  unfold mdTake at h
  split at h
  · simp only [Option.some.injEq, Prod.mk.injEq] at h; omega
  · exact nomatch h

theorem lookupFrom_congr {α : Type} (book : List (CodeWord α)) {a b : MainData} {lo stop : Nat} (h : SameBits a b lo stop)
    (fuel n w : Nat) {p : Nat} (hp : lo ≤ p) : lookupFrom book a stop fuel n w p = lookupFrom book b stop fuel n w p := by
  induction fuel generalizing n w p with
  | zero => rfl
  | succ fuel ih =>
    unfold lookupFrom
    rw [mdTake_congr h hp]
    cases ht : mdTake b stop p 1 with
    | none => rfl
    | some r =>
      have := mdTake_bounds (v := r.1) (q := r.2) ht
      simp only
      split
      · rfl
      · exact ih _ _ (by omega)

theorem lookupFrom_bounds {α : Type} {book : List (CodeWord α)} {a : MainData} {stop fuel n w p q : Nat} {v : α}
    (h : lookupFrom book a stop fuel n w p = some (v, q)) : p < q ∧ q ≤ stop := by
  induction fuel generalizing n w p with
  | zero => exact nomatch h
  | succ fuel ih =>
    unfold lookupFrom at h
    cases ht : mdTake a stop p 1 with
    | none => simp only [ht] at h; exact nomatch h
    | some r =>
      have hb := mdTake_bounds (v := r.1) (q := r.2) ht
      simp only [ht] at h
      split at h
      · simp only [Option.some.injEq, Prod.mk.injEq] at h; omega
      · have := ih h; omega

theorem signedValue_congr {a b : MainData} {lo stop : Nat} (h : SameBits a b lo stop) (linbits x : Nat) {p : Nat}
    (hp : lo ≤ p) : signedValue linbits a stop x p = signedValue linbits b stop x p := by
  unfold signedValue
  split
  · rw [mdTake_congr h hp]
    cases ht : mdTake b stop p linbits with
    | none => rfl
    | some r =>
      have := mdTake_bounds (v := r.1) (q := r.2) ht
      simp only [Option.bind_eq_bind, Option.bind_some]
      rw [mdTake_congr h (p := r.2) (by omega)]
  · simp only [Option.bind_eq_bind, Option.bind_some]
    rw [mdTake_congr h hp]

theorem signedValue_bounds {a : MainData} {linbits stop x p q : Nat} {v : Int}
    (h : signedValue linbits a stop x p = some (v, q)) : p ≤ q ∧ (p ≤ stop → q ≤ stop) := by
  have tail {y r : Nat} (h : (if y = 0 then some (0, r)
      else (mdTake a stop r 1).bind fun b => some (if b.1 = 1 then -(y : Int) else (y : Int), b.2)) = some (v, q)) :
      r ≤ q ∧ (r ≤ stop → q ≤ stop) := by
    split at h
    · simp only [Option.some.injEq, Prod.mk.injEq] at h; omega
    · obtain ⟨⟨_, _⟩, h1, h2⟩ := Option.bind_eq_some_iff.mp h
      have := mdTake_bounds h1
      simp only [Option.some.injEq, Prod.mk.injEq] at h2
      omega
  unfold signedValue at h
  simp only [Option.bind_eq_bind, Option.bind_some] at h
  split at h
  · obtain ⟨⟨_, _⟩, h1, h2⟩ := Option.bind_eq_some_iff.mp h
    have := mdTake_bounds h1
    have := tail h2
    omega
  · exact tail h

/-- `PairWord` reads bits before `end` only, and moves forward (R375). -/
theorem pairWord_congr (c : Config) (t : Nat) {a b : MainData} {lo stop : Nat} (h : SameBits a b lo stop) {p : Nat}
    (hp : lo ≤ p) : pairWord c t a stop p = pairWord c t b stop p := by
  unfold pairWord
  split
  · rfl
  · cases tableSelectRow t with
    | none => rfl
    | some row =>
      simp only [Option.bind_eq_bind, Option.bind_some, lookup]
      rw [lookupFrom_congr _ h _ _ _ hp]
      cases hl : lookupFrom (pairBook c row.1) b stop (longest (pairBook c row.1)) 0 0 p with
      | none => rfl
      | some r =>
        have hb := lookupFrom_bounds (v := r.1) (q := r.2) hl
        simp only [Option.bind_some]
        rw [signedValue_congr h _ _ (p := r.2) (by omega)]
        cases hx : signedValue row.2 b stop r.1.1 r.2 with
        | none => rfl
        | some x =>
          have hs := signedValue_bounds (v := x.1) (q := x.2) hx
          simp only [Option.bind_some]
          rw [signedValue_congr h _ _ (p := x.2) (by omega)]

theorem pairWord_bounds {c : Config} {t : Nat} {a : MainData} {stop p q : Nat} {v : Int × Int}
    (h : pairWord c t a stop p = some (v, q)) : p ≤ q ∧ (p ≤ stop → q ≤ stop) := by
  unfold pairWord at h
  split at h
  · simp only [Option.some.injEq, Prod.mk.injEq] at h; omega
  · simp only [Option.bind_eq_bind] at h
    obtain ⟨_, _, h⟩ := Option.bind_eq_some_iff.mp h
    obtain ⟨⟨_, _⟩, h1, h⟩ := Option.bind_eq_some_iff.mp h
    obtain ⟨⟨_, _⟩, h2, h⟩ := Option.bind_eq_some_iff.mp h
    obtain ⟨⟨_, _⟩, h3, h⟩ := Option.bind_eq_some_iff.mp h
    have := lookupFrom_bounds h1
    have := signedValue_bounds h2
    have := signedValue_bounds h3
    simp only [Option.some.injEq, Prod.mk.injEq] at h
    omega

theorem quadSign_congr {a b : MainData} {lo stop : Nat} (h : SameBits a b lo stop) (bit : Bool) {p : Nat} (hp : lo ≤ p) :
    quadSign a stop bit p = quadSign b stop bit p := by
  unfold quadSign
  split
  · rw [mdTake_congr h hp]
  · rfl

theorem quadSign_bounds {a : MainData} {stop p q : Nat} {bit : Bool} {v : Int} (h : quadSign a stop bit p = some (v, q)) :
    p ≤ q ∧ (p ≤ stop → q ≤ stop) := by
  unfold quadSign at h
  split at h
  · obtain ⟨⟨_, _⟩, h3, h4⟩ := Option.bind_eq_some_iff.mp h
    have := mdTake_bounds h3
    simp only [Option.some.injEq, Prod.mk.injEq] at h4
    omega
  · simp only [Option.some.injEq, Prod.mk.injEq] at h; omega

/-- `QuadWord` reads bits before `end` only, and moves forward (R369). -/
theorem quadWord_congr (c : Config) (sel : BitVec 1) {a b : MainData} {lo stop : Nat} (h : SameBits a b lo stop) {p : Nat}
    (hp : lo ≤ p) : quadWord c sel a stop p = quadWord c sel b stop p := by
  unfold quadWord
  simp only [Option.bind_eq_bind, lookup]
  rw [lookupFrom_congr _ h _ _ _ hp]
  refine Option.bind_congr fun r hr => ?_
  have hb := lookupFrom_bounds (v := r.1) (q := r.2) hr
  rw [quadSign_congr h _ (p := r.2) (by omega)]
  refine Option.bind_congr fun v hv => ?_
  have hv := quadSign_bounds (v := v.1) (q := v.2) hv
  rw [quadSign_congr h _ (p := v.2) (by omega)]
  refine Option.bind_congr fun w hw => ?_
  have hw := quadSign_bounds (v := w.1) (q := w.2) hw
  rw [quadSign_congr h _ (p := w.2) (by omega)]
  refine Option.bind_congr fun x hx => ?_
  have hx := quadSign_bounds (v := x.1) (q := x.2) hx
  rw [quadSign_congr h _ (p := x.2) (by omega)]

theorem quadWord_bounds {c : Config} {sel : BitVec 1} {a : MainData} {stop p q : Nat} {v : Int × Int × Int × Int}
    (h : quadWord c sel a stop p = some (v, q)) : p < q ∧ q ≤ stop := by
  unfold quadWord at h
  simp only [Option.bind_eq_bind] at h
  obtain ⟨⟨_, _⟩, h1, h⟩ := Option.bind_eq_some_iff.mp h
  obtain ⟨⟨_, _⟩, h2, h⟩ := Option.bind_eq_some_iff.mp h
  obtain ⟨⟨_, _⟩, h3, h⟩ := Option.bind_eq_some_iff.mp h
  obtain ⟨⟨_, _⟩, h4, h⟩ := Option.bind_eq_some_iff.mp h
  obtain ⟨⟨_, _⟩, h5, h⟩ := Option.bind_eq_some_iff.mp h
  have := lookupFrom_bounds h1
  have := quadSign_bounds h2
  have := quadSign_bounds h3
  have := quadSign_bounds h4
  have := quadSign_bounds h5
  simp only [Option.some.injEq, Prod.mk.injEq] at h
  omega

/-! ## Lines -/

theorem granular_finishLines (s : State) : Granular s (finishLines s) :=
  ((granular_withTr s _).trans _ _ _ (granular_withTr _ _)).trans _ _ _ (granular_withSeq _ _)

theorem granular_storeLines (vs : List Int) (p : Nat) (s : State) : Granular s (storeLines vs p s) := by
  have h (l : List (Int × Nat)) (t : State) :
      Granular t (l.foldl (fun t v => setLine s.seqCh (s.seq.line + v.2) v.1 t) t) := by
    induction l generalizing t with
    | nil => exact .refl t
    | cons b l ih => exact (granular_withTr t _).trans _ _ _ (ih _)
  exact ((h _ s).trans _ _ _ (granular_withTr _ _)).trans _ _ _ (granular_withSeq _ _)

theorem granular_silence (ch : Nat) (s : State) : Granular s (silence ch s) :=
  (granular_withTr s _).trans _ _ _ (granular_withTr _ _)

theorem granular_pairStep (t : Nat) (s : State) : Granular s (pairStep t s) := by
  unfold pairStep
  split
  · exact .refl s
  · cases pairWord s.cfg t s.tr.md s.seq.lim s.tr.md.pos.toNat with
    | some r => exact granular_storeLines _ _ s
    | none => exact (granular_warn (.inl rfl) s).trans _ _ _ (granular_finishLines _)

theorem granular_quadStep (sel : BitVec 1) (s : State) : Granular s (quadStep sel s) := by
  unfold quadStep
  split
  · exact .refl s
  · split
    · cases quadWord s.cfg sel s.tr.md s.seq.lim s.tr.md.pos.toNat with
      | some r => exact granular_storeLines _ _ s
      | none => exact granular_finishLines s
    · exact granular_finishLines s

theorem granular_quadRegion (sel : BitVec 1) (fuel : Nat) (s : State) : Granular s (quadRegion sel fuel s) := by
  induction fuel generalizing s with
  | zero => exact granular_finishLines s
  | succ n ih =>
    unfold quadRegion
    split
    · exact .refl s
    · exact (granular_quadStep sel s).trans _ _ _ (ih _)

theorem granular_huffDecode (gr ch stop : Nat) (s : State) : Granular s (huffDecode gr ch stop s) :=
  ((granular_withSeq s _).trans _ _ _ (granular_loop (fun _ _ => granular_pairStep _ _) _ _)).trans _ _ _
    (granular_quadRegion _ _ _)

theorem granular_reservedSelector (s : State) : Granular s (reservedSelector s) :=
  ((granular_warn (.inl rfl) s).trans _ _ _ (granular_silence _ _)).trans _ _ _ (granular_withSeq _ _)

/-- The checks of a granule raise no other warning (R376). -/
theorem granuleChecks_code {gr ch p : Nat} {s : State} {e : Code} (h : granuleChecks gr ch p s = some e) :
    e = .huffmanTableError ∨ e = .reservoirUnderrun := by
  unfold granuleChecks at h
  simp only at h
  repeat' split at h
  all_goals first | (cases h; tauto) | cases h

theorem granular_decodeLines (under : Bool) (gr ch p : Nat) (s : State) :
    Granular s (decodeLines under gr ch p s) := by
  unfold decodeLines
  split
  · exact granular_silence ch s
  · cases h : granuleChecks gr ch p s with
    | some e => exact (granular_warn (granuleChecks_code h) s).trans _ _ _ (granular_silence _ _)
    | none =>
      exact ((granular_withTr s _).trans _ _ _ (granular_readScaleFactors _ _ _)).trans _ _ _
        (granular_huffDecode _ _ _ _)

/-! ## Stages -/

theorem granular_requantize (gr ch : Nat) (s : State) : Granular s (requantize gr ch s) := granular_withTr s _

theorem granular_stereo (gr : Nat) (s : State) : Granular s (stereo gr s) := by
  unfold stereo
  split
  · exact .refl s
  · exact granular_withTr s _

theorem granular_hybrid (kind : BlockKind) (ch : Nat) (s : State) : Granular s (hybrid kind ch s) :=
  (granular_withTr s _).trans _ _ _ (granular_withOv _ _)

theorem granular_feedHybrid (ch : Nat) (s : State) : Granular s (feedHybrid ch s) :=
  granular_of_synth (feedHybrid_frame ch s) (synthKeeps_hybrid ch s)

theorem granular_stages (gr : Nat) (s : State) : Granular s (granuleStages gr s) := by
  unfold granuleStages
  simp only
  have h1 := granular_loop (fun ch => granular_requantize gr ch) s.nch s
  have h2 (t : State) : Granular t (if s.nch = 2 then stereo gr t else t) := by
    split
    · exact granular_stereo gr t
    · exact .refl t
  exact ((h1.trans _ _ _ (h2 _)).trans _ _ _ (granular_loop (fun ch u => granular_hybrid _ ch u) s.nch _)).trans _ _ _
    (granular_loop granular_feedHybrid s.nch _)

theorem granular_decodeGranule (under : Bool) (gr : Nat) (s : State) : Granular s (decodeGranule under gr s) :=
  (granular_loop (fun ch u => granular_decodeLines under gr ch (u.bitOffset gr ch) u) s.nch s).trans _ _ _
    (granular_stages gr _)

/-- Everything after the side information. -/
theorem granular_decodeMain3 (s : State) : Granular s (decodeMain3 s) :=
  (granular_reservoirStep s).trans _ _ _ (granular_loop (fun gr u => granular_decodeGranule _ gr u) _ _)

end Sys2Proof.Machine
end

