-- ==== Sys2Proof/Laws/Num.lean ====
section
/-! SUPPORT. The laws of the arithmetic: zeros, finite values, and what the coefficients are in every format. -/

-- One theorem after another: threads that wait for each other exhaust the memory limit with their stacks.
set_option Elab.async false

namespace Sys2Proof.Machine.Num

/-! ## Zeros -/

/-- A zero of either sign. -/
def IsZero (x : Sample) : Prop := ∃ s, x = .fin s 0 0

theorem isZero_zero : IsZero zero := ⟨_, rfl⟩

@[simp] theorem pack_zero (n : NumSystem) (s : Bool) (e : Int) : pack n s 0 e = .fin s 0 0 := rfl

@[simp] theorem neg_neg (x : Sample) : neg (neg x) = x := by cases x <;> simp [neg]

theorem isZero_neg {x : Sample} (h : IsZero x) : IsZero (neg x) := by
  obtain ⟨s, rfl⟩ := h
  exact ⟨_, rfl⟩

theorem isFinite_iff {x : Sample} : isFinite x = true ↔ ∃ s m e, x = .fin s m e := by
  cases x <;> simp [isFinite]

/-- A zero times a finite value is a zero, +0.0 if no sign is set. -/
theorem mul_zero_fin (n : NumSystem) (s t : Bool) (k : Nat) (f : Int) :
    mul n (.fin s 0 0) (.fin t k f) = .fin (s != t) 0 0 := by simp [mul]

theorem mul_fin_zero (n : NumSystem) (s t : Bool) (k : Nat) (f : Int) :
    mul n (.fin t k f) (.fin s 0 0) = .fin (t != s) 0 0 := by simp [mul]

theorem isZero_mul_left (n : NumSystem) {x y : Sample} (hx : IsZero x) (hy : isFinite y = true) : IsZero (mul n x y) := by
  obtain ⟨s, rfl⟩ := hx
  obtain ⟨t, k, f, rfl⟩ := isFinite_iff.mp hy
  exact ⟨_, mul_zero_fin ..⟩

theorem isZero_mul_right (n : NumSystem) {x y : Sample} (hx : isFinite x = true) (hy : IsZero y) : IsZero (mul n x y) := by
  obtain ⟨s, rfl⟩ := hy
  obtain ⟨t, k, f, rfl⟩ := isFinite_iff.mp hx
  exact ⟨_, mul_fin_zero ..⟩

/-- +0.0 absorbs any zero. -/
theorem add_zero_isZero (n : NumSystem) {x : Sample} (h : IsZero x) : add n zero x = zero := by
  obtain ⟨s, rfl⟩ := h
  cases s <;> rfl

/-- What is not a number stays so. -/
@[simp] theorem mul_nan_left (n : NumSystem) (x : Sample) : mul n .nan x = .nan := rfl
@[simp] theorem mul_nan_right (n : NumSystem) (x : Sample) : mul n x .nan = .nan := by cases x <;> rfl
@[simp] theorem add_nan_left (n : NumSystem) (x : Sample) : add n .nan x = .nan := rfl
@[simp] theorem add_nan_right (n : NumSystem) (x : Sample) : add n x .nan = .nan := by cases x <;> rfl

/-! ## Finite results -/

theorem isFinite_canonical (s : Bool) (m : Nat) (e : Int) : isFinite (canonical s m e) = true := by
  unfold canonical
  split <;> rfl

/-- Rounding a number below 2^k to units of 2^d gives at most 2^(k - d), and at most 1 when nothing is left. -/
theorem roundShift_le {m k d : Nat} (h : m ≤ 2 ^ k) : roundShift m d ≤ 2 ^ (k - d) := by
  have hp : 0 < 2 ^ d := Nat.two_pow_pos d
  have hk : 0 < 2 ^ (k - d) := Nat.two_pow_pos _
  have hm : m ≤ 2 ^ (k - d) * 2 ^ d := by
    rw [← pow_add]
    exact h.trans (Nat.pow_le_pow_right (by decide) (by omega))
  have hdiv : m / 2 ^ d ≤ 2 ^ (k - d) := Nat.div_le_of_le_mul (by rwa [Nat.mul_comm])
  simp only [roundShift]
  split
  · rename_i hr
    rcases Nat.lt_or_eq_of_le hdiv with hlt | heq
    · exact hlt
    · have hmod : m % 2 ^ d = 0 := by
        have := Nat.div_add_mod m (2 ^ d)
        rw [heq, Nat.mul_comm] at this
        omega
      rw [hmod] at hr
      omega
  · exact hdiv

/-- The exponent range of every format. -/
theorem emax_bounds (n : NumSystem) : 127 ≤ n.emax ∧ n.qmin ≤ -149 := by cases n <;> decide

/-- x is finite and at most 2^k in size. -/
def Small (k : Int) (x : Sample) : Prop :=
  ∃ s m e, x = .fin s m e ∧ (m = 0 ∨ ∃ b : Nat, m ≤ 2 ^ b ∧ e + b ≤ k)

theorem Small.finite {k : Int} {x : Sample} (h : Small k x) : isFinite x = true := by
  obtain ⟨s, m, e, rfl, -⟩ := h
  rfl

theorem small_canonical (s : Bool) {m b : Nat} {e k : Int} (h : m ≤ 2 ^ b) (he : e + b ≤ k) :
    Small k (canonical s m e) := by
  unfold canonical
  split
  · exact ⟨s, 0, 0, rfl, .inl rfl⟩
  · rename_i hm
    obtain ⟨t, -, ht⟩ := (Nat.dvd_prime_pow Nat.prime_two).mp (Nat.gcd_dvd_right m (2 ^ Nat.log2 m))
    have hg : 2 ^ t ≤ m := ht ▸ Nat.le_of_dvd (Nat.pos_of_ne_zero hm) (Nat.gcd_dvd_left m _)
    have htb : t ≤ b := (Nat.pow_le_pow_iff_right (by decide)).mp (hg.trans h)
    refine ⟨s, _, _, rfl, .inr ⟨b - t, ?_, ?_⟩⟩
    · rw [ht]
      refine Nat.div_le_of_le_mul ?_
      rwa [← pow_add, Nat.add_sub_cancel' htb]
    · rw [ht, Nat.log2_two_pow]
      omega

/-- Rounding keeps a bound that is a power of two of the format. -/
theorem small_pack (n : NumSystem) (s : Bool) {m b : Nat} {e k : Int} (h : m ≤ 2 ^ b) (he : e + b ≤ k) (hk : k ≤ 127)
    (hq : -149 ≤ k) : Small k (pack n s m e) := by
  have ⟨hx, hm⟩ := emax_bounds n
  unfold pack
  split
  · exact ⟨s, 0, 0, rfl, .inl rfl⟩
  · rename_i h0
    have hlog : Nat.log2 m ≤ b := (Nat.pow_le_pow_iff_right (by decide)).mp ((Nat.log2_self_le h0).trans h)
    simp only
    generalize hqd : max (e + (Nat.log2 m : Int) - n.fracBits) n.qmin = q
    split
    · rw [if_neg (by omega)]
      exact small_canonical s h he
    · have hr := roundShift_le (d := (q - e).toNat) h
      have hlog2 : Nat.log2 (roundShift m (q - e).toNat) ≤ b - (q - e).toNat := by
        by_cases hz : roundShift m (q - e).toNat = 0
        · rw [hz]; simp
        · exact (Nat.pow_le_pow_iff_right (by decide)).mp ((Nat.log2_self_le hz).trans hr)
      rw [if_neg (by omega)]
      exact small_canonical s hr (by omega)

theorem small_mul (n : NumSystem) {x y : Sample} {j k : Int} (hx : Small j x) (hy : Small k y) (h : j + k ≤ 127)
    (hq : -149 ≤ j + k) : Small (j + k) (mul n x y) := by
  obtain ⟨s, m, e, rfl, hm⟩ := hx
  obtain ⟨t, l, f, rfl, hl⟩ := hy
  simp only [mul]
  rcases hm with rfl | ⟨a, ha, ha'⟩
  · exact ⟨_, 0, 0, by rw [Nat.zero_mul, pack_zero], .inl rfl⟩
  · rcases hl with rfl | ⟨b, hb, hb'⟩
    · exact ⟨_, 0, 0, by rw [Nat.mul_zero, pack_zero], .inl rfl⟩
    · refine small_pack n _ (b := a + b) ?_ (by omega) h hq
      rw [pow_add]
      exact Nat.mul_le_mul ha hb

theorem small_packRatio (n : NumSystem) (s : Bool) {m d b : Nat} {e k : Int} (h : m ≤ 2 ^ b) (he : e + b + 1 ≤ k)
    (hk : k ≤ 127) (hq : -149 ≤ k) : Small k (packRatio n s m d e) := by
  simp only [packRatio]
  generalize 256 + Nat.log2 d = x
  refine small_pack n s (b := b + x + 2) ?_ (by push_cast; omega) hk hq
  have hw : m * 2 ^ x / d ≤ 2 ^ (b + x) := by
    refine (Nat.div_le_self ..).trans ?_
    rw [pow_add]
    exact Nat.mul_le_mul_right _ h
  have h1 : 1 ≤ 2 ^ (b + x) := Nat.one_le_two_pow
  rw [pow_succ, pow_succ]
  split <;> omega

theorem small_div (n : NumSystem) {x : Sample} {j k f : Int} {t : Bool} {l : Nat} (hx : Small j x) (hl : l ≠ 0)
    (h : j - f + 1 ≤ k) (hk : k ≤ 127) (hq : -149 ≤ k) : Small k (div n x (.fin t l f)) := by
  obtain ⟨s, m, e, rfl, hm⟩ := hx
  simp only [div, if_neg hl]
  rcases hm with rfl | ⟨b, hb, hb'⟩
  · exact ⟨s != t, 0, 0, by simp [packRatio], .inl rfl⟩
  · exact small_packRatio n _ hb (by omega) hk hq

theorem small_ofNat (n : NumSystem) {m b : Nat} (h : m ≤ 2 ^ b) (hb : b ≤ 127) : Small b (ofNat n m) :=
  small_pack n _ h (by omega) (by omega) (by omega)

theorem small_pi (n : NumSystem) : Small 2 (pi n) :=
  small_pack n false (b := 200 + 58) (by rw [pow_add]; decide) (by decide) (by decide) (by decide)

/-- A cosine of a finite value is finite. -/
theorem isFinite_cos (n : NumSystem) {x : Sample} (h : isFinite x = true) : isFinite (cos n x) = true := by
  obtain ⟨s, m, e, rfl⟩ := isFinite_iff.mp h
  refine (small_pack n _ (b := 256) (k := 0) ?_ (by decide) (by decide) (by decide)).finite
  simp only [cosFix, clampFix]
  omega

end Sys2Proof.Machine.Num

namespace Sys2Proof.Machine

open Sys2Proof.Machine.Num

/-! ## Sums -/

theorem sum_succ (n : NumSystem) (k : Nat) (f : Nat → Sample) : sum n (k + 1) f = Num.add n (sum n k f) (f k) := by
  simp [sum, List.range_succ]

/-- A sum of zeros is +0.0. -/
theorem sum_isZero (n : NumSystem) (k : Nat) (f : Nat → Sample) (h : ∀ i < k, IsZero (f i)) :
    sum n k f = Machine.Num.zero := by
  induction k with
  | zero => rfl
  | succ k ih => rw [sum_succ, ih fun i hi => h i (by omega), add_zero_isZero n (h k (by omega))]

theorem sum_congr (n : NumSystem) (k : Nat) {f g : Nat → Sample} (h : ∀ i < k, f i = g i) : sum n k f = sum n k g := by
  induction k with
  | zero => rfl
  | succ k ih => rw [sum_succ, sum_succ, ih fun i hi => h i (by omega), h k (by omega)]

/-! ## Coefficients -/

/-- A finite value without a sign. -/
def plain (x : Sample) : Bool :=
  match x with
  | .fin s _ _ => !s
  | .inf _ | .nan => false

theorem plain_iff {x : Sample} : plain x = true ↔ ∃ m e, x = .fin false m e := by
  cases x <;> simp [plain]

/-- +0.0 times a value without a sign is +0.0. -/
theorem mul_zero_plain (n : NumSystem) {x : Sample} (h : plain x = true) :
    Num.mul n Machine.Num.zero x = Machine.Num.zero := by
  obtain ⟨m, e, rfl⟩ := plain_iff.mp h
  exact mul_zero_fin ..

theorem winLong_plain (n : NumSystem) : ∀ bt < 4, ∀ i < 36, plain (winLong n bt i) = true := by
  cases n <;> decide +kernel

theorem winShort_plain (n : NumSystem) : ∀ i < 12, plain (winShort n i) = true := by cases n <;> decide +kernel

theorem coefCS_plain (n : NumSystem) : ∀ i < 8, plain (coefCS n i) = true := by cases n <;> decide +kernel

theorem coefCA_finite (n : NumSystem) : ∀ i < 8, isFinite (coefCA n i) = true := by cases n <;> decide +kernel

/-! The cosines of the transforms are finite: their angles are. -/

theorem matrixN_finite (n : NumSystem) {i k : Nat} (hi : i < 64) (hk : k < 32) : isFinite (matrixN n i k) = true := by
  have hp : (16 + i) * (2 * k + 1) ≤ 2 ^ 13 := (Nat.mul_le_mul (by omega : 16 + i ≤ 79) (by omega : 2 * k + 1 ≤ 63)).trans
    (by decide)
  have h64 : Num.ofNat n 64 = .fin false 1 6 := by cases n <;> decide +kernel
  refine isFinite_cos n (Small.finite (k := 10) ?_)
  rw [h64]
  exact small_div n (small_mul n (small_ofNat n hp (by decide)) (small_pi n) (by decide) (by decide)) (by decide)
    (by decide) (by decide) (by decide)

theorem transformCos_finite (n : NumSystem) {d a b : Nat} (hd : d = 72 ∨ d = 24) (ha : a ≤ 2 ^ 7) (hb : b ≤ 2 ^ 6) :
    isFinite (transformCos n d a b) = true := by
  have hc : ∃ l : Nat, l ≠ 0 ∧ Num.ofNat n d = .fin false l 3 := by
    rcases hd with rfl | rfl
    · exact ⟨9, by decide, by cases n <;> decide +kernel⟩
    · exact ⟨3, by decide, by cases n <;> decide +kernel⟩
  obtain ⟨l, hl, hc⟩ := hc
  refine isFinite_cos n (Small.finite (k := 13) ?_)
  rw [hc]
  exact small_mul n (j := 7) (k := 6)
    (small_mul n (j := 0) (k := 7) (small_div n (small_pi n) hl (by decide) (by decide) (by decide))
      (small_ofNat n ha (by decide)) (by decide) (by decide))
    (small_ofNat n hb (by decide)) (by decide) (by decide)

theorem imdctLong_finite (n : NumSystem) {i k : Nat} (hi : i < 36) (hk : k < 18) : isFinite (imdctLong n i k) = true :=
  transformCos_finite n (.inl rfl) (by omega) (by omega)

theorem imdctShort_finite (n : NumSystem) {i k : Nat} (hi : i < 12) (hk : k < 6) : isFinite (imdctShort n i k) = true :=
  transformCos_finite n (.inr rfl) (by omega) (by omega)

end Sys2Proof.Machine
end

