-- ==== Sys2Proof/Laws/Parse.lean ====
section
/-! SUPPORT. What reading a frame body can do: only `FB.pos` and the transient registers change, and `FB.pos` stays in the
buffer. So no error of a layer decoder touches persistent state (R483). -/

-- One theorem after another: threads that wait for each other exhaust the memory limit with their stacks.
set_option Elab.async false

namespace Sys2Proof.Machine

open Act

/-- A parse frame whose cursor stays in the frame buffer. -/
def Parses (s t : State) : Prop :=
  ParseFrame s t ∧ (s.fb.pos.toNat ≤ 8 * s.fb.bytes.length → t.fb.pos.toNat ≤ 8 * t.fb.bytes.length)

theorem ParseFrame.refl (s : State) : ParseFrame s s := by constructor <;> rfl

theorem ParseFrame.trans {s t u : State} (h : ParseFrame s t) (k : ParseFrame t u) : ParseFrame s u := by
  cases h; cases k
  constructor <;> simp only [*]

theorem Parses.refl (s : State) : Parses s s := ⟨.refl s, id⟩

theorem Parses.trans (s t u : State) (h : Parses s t) (k : Parses t u) : Parses s u :=
  ⟨h.1.trans k.1, k.2 ∘ h.2⟩

/-- A change of the transient registers alone. -/
theorem parses_withTr (s : State) (x : Transient) : Parses s (s.withTr x) := ⟨by constructor <;> rfl, id⟩

/-- `FbBits(n)` (R184): the n bits at `FB.pos` and the cursor after them, or nothing changed. -/
theorem fbBits_ends {Q : Nat → State → Prop} {E : Code → State → Prop} (n : Nat) (s : State) :
    Ends (fbBits n) Q E s ↔
      if 8 * s.fb.bytes.length < s.fb.pos.toNat + n then E .streamExhausted s
      else Q (bitsAt s.fb.bytes s.fb.pos.toNat n)
        (s.withFb { s.fb with pos := BitVec.ofNat 32 (s.fb.pos.toNat + n) }) := by
  unfold fbBits Ends
  simp only
  split <;> rename_i h <;> split at h <;> cases h <;> rename_i hc <;> simp only [hc, if_true, if_false]

/-- The bit budget (R274, R299): enough bits are left, or the body ends. -/
theorem fbBudget_ends {Q : Unit → State → Prop} {E : Code → State → Prop} (n : Nat) (s : State) :
    Ends (fbBudget n) Q E s ↔
      if 8 * s.fb.bytes.length < s.fb.pos.toNat + n then E .streamExhausted s else Q () s := by
  unfold fbBudget Ends
  simp only
  split <;> rename_i h <;> split at h <;> cases h <;> rename_i hc <;> simp only [hc, if_true, if_false]

theorem fbBits_parses (n : Nat) : Keeps Parses (fbBits n) := by
  intro s
  unfold fbBits Ends
  simp only
  split
  · rename_i h
    split at h
    · cases h
    · rename_i hle
      cases h
      refine ⟨by constructor <;> rfl, fun _ => ?_⟩
      have : (BitVec.ofNat 32 (s.fb.pos.toNat + n)).toNat ≤ s.fb.pos.toNat + n := by
        simp only [BitVec.toNat_ofNat]; exact Nat.mod_le _ _
      simp only [State.withFb_fields]
      omega
  · rename_i h
    split at h
    · cases h; exact Parses.refl s
    · cases h

theorem fbBudget_parses (n : Nat) : Keeps Parses (fbBudget n) := by
  intro s
  unfold fbBudget Ends
  simp only
  split <;> rename_i h <;> split at h <;> cases h <;> exact Parses.refl s

/-! ## Composition -/

section
variable {α β : Type}

theorem parses_pure (v : α) : Keeps Parses (pure v) := keeps_pure Parses.refl v
theorem parses_throw (e : Code) : Keeps Parses (throw e : Act α) := keeps_throw Parses.refl e
theorem parses_get : Keeps Parses (get : Act State) := keeps_get Parses.refl

theorem parses_bind {a : Act α} {k : α → Act β} (ha : Keeps Parses a) (hk : ∀ v, Keeps Parses (k v)) :
    Keeps Parses (a >>= k) := keeps_bind Parses.trans ha hk

theorem parses_seq {a : Act Unit} {b : Act β} (ha : Keeps Parses a) (hb : Keeps Parses b) :
    Keeps Parses (a >>= fun _ => b) := parses_bind ha fun _ => hb

theorem parses_forEach {f : Nat → Act Unit} (h : ∀ i, Keeps Parses (f i)) (n : Nat) : Keeps Parses (forEach n f) :=
  keeps_forEach Parses.refl Parses.trans h n

theorem parses_modify {f : State → State} (h : ∀ s, Parses s (f s)) : Keeps Parses (modify f : Act PUnit) :=
  keeps_modify h

theorem parses_loop {f : Nat → State → State} (h : ∀ i s, Parses s (f i s)) (n : Nat) (s : State) :
    Parses s (loop n f s) := loop_keeps Parses.refl Parses.trans h n s

end

/-! ## Layer I -/

theorem skipCheckWord_parses : Keeps Parses skipCheckWord :=
  parses_bind parses_get fun _ =>
    keeps_ite (parses_bind (fbBits_parses 16) fun _ => parses_pure _) (parses_pure _)

theorem readAlloc1_parses : Keeps Parses readAlloc1 :=
  parses_bind (fbBits_parses 4) fun _ => keeps_ite (parses_throw _) (parses_pure _)

theorem readScfIndex_parses : Keeps Parses readScfIndex :=
  parses_bind (fbBits_parses 6) fun _ => keeps_ite (parses_throw _) (parses_pure _)

theorem readAllocs1_parses (nch bound : Nat) : Keeps Parses (readAllocs1 nch bound) :=
  parses_forEach (fun _ => keeps_ite
    (parses_forEach (fun _ => parses_bind readAlloc1_parses fun _ => parses_modify fun _ => parses_withTr _ _) _)
    (parses_bind readAlloc1_parses fun _ => parses_bind (parses_modify fun _ => parses_withTr _ _) fun _ =>
      keeps_ite (parses_modify fun _ => parses_withTr _ _) (parses_pure _))) _

theorem readScfs1_parses (nch : Nat) : Keeps Parses (readScfs1 nch) :=
  parses_forEach (fun _ => parses_forEach (fun _ => parses_bind parses_get fun _ =>
    keeps_ite (parses_bind readScfIndex_parses fun _ => parses_modify fun _ => parses_withTr _ _)
      (parses_pure _)) _) _

theorem setGrid_parses (ch sb i : Nat) (x : Sample) (s : State) : Parses s (setGrid ch sb i x s) := parses_withTr s _

theorem readSample1_parses (nch bound i sb : Nat) : Keeps Parses (readSample1 nch bound i sb) :=
  keeps_ite
    (parses_forEach (fun _ => parses_bind parses_get fun _ =>
      keeps_ite (parses_modify fun _ => setGrid_parses _ _ _ _ _)
        (parses_bind (fbBits_parses _) fun _ => parses_modify fun _ => setGrid_parses _ _ _ _ _)) _)
    (parses_bind parses_get fun _ =>
      keeps_ite (parses_modify fun _ => parses_loop (fun _ _ => setGrid_parses _ _ _ _ _) _ _)
        (parses_bind (fbBits_parses _) fun _ =>
          parses_modify fun _ => parses_loop (fun _ _ => setGrid_parses _ _ _ _ _) _ _))

theorem checkBudget1_parses (nch bound : Nat) : Keeps Parses (checkBudget1 nch bound) := by
  intro s
  have h : checkBudget1 nch bound s = fbBudget (budget1 nch bound s) s := by unfold checkBudget1; rfl
  exact (ends_congr h).mpr (fbBudget_parses _ s)

theorem readSamples1_parses (nch bound : Nat) : Keeps Parses (readSamples1 nch bound) :=
  parses_forEach (fun _ => parses_forEach (fun _ => readSample1_parses _ _ _ _) _) _

/-- Everything of `L1Decode` that can fail is a parse. -/
theorem parse1_parses (nch bound : Nat) : Keeps Parses (parse1 nch bound) := by
  unfold parse1
  refine parses_bind skipCheckWord_parses fun _ => ?_
  refine parses_bind (readAllocs1_parses _ _) fun _ => ?_
  refine parses_bind (readScfs1_parses _) fun _ => ?_
  exact parses_bind (checkBudget1_parses _ _) fun _ => readSamples1_parses _ _

/-! ## Layer II -/

theorem readAllocs2_parses (t : List AllocRow) (sblimit nch bound : Nat) :
    Keeps Parses (readAllocs2 t sblimit nch bound) :=
  parses_forEach (fun _ => keeps_ite
    (parses_forEach (fun _ => parses_bind (fbBits_parses _) fun _ => parses_modify fun _ => parses_withTr _ _) _)
    (keeps_ite
      (parses_bind (fbBits_parses _) fun _ => parses_bind (parses_modify fun _ => parses_withTr _ _) fun _ =>
        keeps_ite (parses_modify fun _ => parses_withTr _ _) (parses_pure _))
      (parses_modify fun _ => parses_loop (fun _ _ => parses_withTr _ _) _ _))) _

theorem readScfsi2_parses (sblimit nch : Nat) : Keeps Parses (readScfsi2 sblimit nch) :=
  parses_forEach (fun _ => parses_forEach (fun _ => parses_bind parses_get fun _ =>
    keeps_ite (parses_bind (fbBits_parses _) fun _ => parses_modify fun _ => parses_withTr _ _)
      (parses_pure _)) _) _

theorem readScf2_parses (ch sb : Nat) : Keeps Parses (readScf2 ch sb) :=
  parses_bind parses_get fun _ => parses_bind readScfIndex_parses fun _ =>
    keeps_ite
      (parses_bind readScfIndex_parses fun _ => parses_bind readScfIndex_parses fun _ =>
        parses_modify fun _ => parses_withTr _ _)
      (keeps_ite (parses_bind readScfIndex_parses fun _ => parses_modify fun _ => parses_withTr _ _)
        (keeps_ite (parses_modify fun _ => parses_withTr _ _)
          (parses_bind readScfIndex_parses fun _ => parses_modify fun _ => parses_withTr _ _)))

theorem readScfs2_parses (sblimit nch : Nat) : Keeps Parses (readScfs2 sblimit nch) :=
  parses_forEach (fun _ => parses_forEach (fun _ => parses_bind parses_get fun _ =>
    keeps_ite (readScf2_parses _ _) (parses_pure _)) _) _

theorem readTriple_parses (q : QuantClass) : Keeps Parses (readTriple q) := by
  unfold readTriple
  cases q.group with
  | some cw => exact parses_bind (fbBits_parses _) fun _ => parses_pure _
  | none =>
    exact parses_bind (fbBits_parses _) fun _ => parses_bind (fbBits_parses _) fun _ =>
      parses_bind (fbBits_parses _) fun _ => parses_pure _

theorem setTriple_parses (ch sb gr : Nat) (q : QuantClass) (v : Nat × Nat × Nat) (s : State) :
    Parses s (setTriple ch sb gr q v s) := parses_withTr s _

theorem zeroTriple_parses (ch sb gr : Nat) (s : State) : Parses s (zeroTriple ch sb gr s) :=
  parses_loop (fun _ _ => setGrid_parses _ _ _ _ _) _ _

theorem readTriple2_parses (t : List AllocRow) (sblimit nch bound gr sb : Nat) :
    Keeps Parses (readTriple2 t sblimit nch bound gr sb) :=
  keeps_ite
    (parses_forEach (fun _ => parses_bind parses_get fun _ =>
      keeps_ite (parses_modify fun _ => zeroTriple_parses _ _ _ _)
        (parses_bind (readTriple_parses _) fun _ => parses_modify fun _ => setTriple_parses _ _ _ _ _ _)) _)
    (parses_bind parses_get fun _ =>
      keeps_ite
        (parses_bind (readTriple_parses _) fun _ =>
          parses_modify fun _ => parses_loop (fun _ _ => setTriple_parses _ _ _ _ _ _) _ _)
        (parses_modify fun _ => parses_loop (fun _ _ => zeroTriple_parses _ _ _ _) _ _))

theorem checkBudget2_parses (t : List AllocRow) (sblimit nch bound : Nat) :
    Keeps Parses (checkBudget2 t sblimit nch bound) := by
  intro s
  have h : checkBudget2 t sblimit nch bound s = fbBudget (budget2 t sblimit nch bound s) s := by
    unfold checkBudget2; rfl
  exact (ends_congr h).mpr (fbBudget_parses _ s)

theorem readTriples2_parses (t : List AllocRow) (sblimit nch bound : Nat) :
    Keeps Parses (readTriples2 t sblimit nch bound) :=
  parses_forEach (fun _ => parses_forEach (fun _ => readTriple2_parses _ _ _ _ _ _) _) _

/-- Everything of `L2Decode` that can fail is a parse. -/
theorem parse2_parses (t : List AllocRow) (sblimit nch bound : Nat) : Keeps Parses (parse2 t sblimit nch bound) := by
  unfold parse2
  refine parses_bind skipCheckWord_parses fun _ => ?_
  refine parses_bind (readAllocs2_parses _ _ _ _) fun _ => ?_
  refine parses_bind (readScfsi2_parses _ _) fun _ => ?_
  refine parses_bind (readScfs2_parses _ _) fun _ => ?_
  exact parses_bind (checkBudget2_parses _ _ _ _) fun _ => readTriples2_parses _ _ _ _

/-! ## Layer III side information -/

theorem readSwitched_parses (g : Granule) : Keeps Parses (readSwitched g) := by
  unfold readSwitched
  iterate 7 refine parses_bind (fbBits_parses _) fun _ => ?_
  exact parses_pure _

theorem readUnswitched_parses (g : Granule) : Keeps Parses (readUnswitched g) := by
  unfold readUnswitched
  iterate 5 refine parses_bind (fbBits_parses _) fun _ => ?_
  exact parses_pure _

theorem readGranule_parses (v1 : Bool) : Keeps Parses (readGranule v1) := by
  unfold readGranule
  iterate 5 refine parses_bind (fbBits_parses _) fun _ => ?_
  refine parses_bind (keeps_ite (readSwitched_parses _) (readUnswitched_parses _)) fun _ => ?_
  refine parses_bind (keeps_ite (fbBits_parses _) (parses_pure _)) fun _ => ?_
  exact parses_bind (fbBits_parses _) fun _ => parses_bind (fbBits_parses _) fun _ => parses_pure _

theorem readScfsi_parses (v1 : Bool) (nch : Nat) : Keeps Parses (readScfsi v1 nch) :=
  keeps_ite (parses_forEach (fun _ => parses_forEach (fun _ => parses_bind (fbBits_parses _) fun _ =>
    parses_modify fun _ => parses_withTr _ _) _) _) (parses_pure _)

theorem readGranules_parses (v1 : Bool) (ngr nch : Nat) : Keeps Parses (readGranules v1 ngr nch) :=
  parses_forEach (fun _ => parses_forEach (fun _ => parses_bind (readGranule_parses _) fun _ =>
    parses_modify fun _ => parses_withTr _ _) _) _

/-- `ParseSideInfo` is a parse. -/
theorem parseSideInfo_parses : Keeps Parses parseSideInfo :=
  parses_bind parses_get fun _ => parses_bind (fbBits_parses _) fun _ =>
    parses_bind (parses_modify fun _ => parses_withTr _ _) fun _ => parses_bind (fbBits_parses _) fun _ =>
      parses_bind (readScfsi_parses _ _) fun _ => readGranules_parses _ _ _

end Sys2Proof.Machine
end

