-- ==== Sys2Proof/Laws/PerInstr.lean ====
section
/-! SUPPORT. The round trip of the encoding, one lemma per instruction: a well-formed instruction is what its own words
decode to. -/

-- One theorem after another: threads that wait for each other exhaust the memory limit with their stacks.
set_option Elab.async false

namespace Sys2Proof.Laws.RoundTrip

/-- The words of a well-formed instruction decode to it, with every operand. -/
def Statement (i : Instr) : Prop := wellFormed i = true → decode .eleven (encode i) = i

/-- A header word decodes to the row of its fields. -/
theorem header {h : HeaderFields} {c : HeaderClass} (hc : headerClass .eleven h = c) :
    decode .eleven (.header (joinHeader h)) = headerRow c h := by
  show headerRow (headerClass .eleven (splitHeader (joinHeader h))) (splitHeader (joinHeader h)) = _
  rw [split_join, hc]

/-- A command word that no row admits decodes to `ILLEGAL_CMD`. -/
theorem illegal {w : CmdWord} (h : legalCommand w = false) : decodeCommand w = .illegalCmd w := by
  unfold legalCommand at h
  unfold decodeCommand
  generalize cmdOp w = op, cmdA w = a, cmdRsv w = r, cmdD w = d at h ⊢
  dsimp only at h ⊢
  by_cases hr : r = 0
  · subst hr
    rw [if_neg (by decide)]
    by_cases h1 : op = 0x10
    · rw [if_pos h1, if_neg (fun e => absurd h (by subst h1 e; simp))]
    rw [if_neg h1, if_neg (fun e => absurd h (by subst e; simp)), if_neg (fun e => absurd h (by subst e; simp))]
    by_cases ha : a = 0
    · subst ha
      rw [if_neg (by decide), if_neg (fun e => absurd h (by subst e; simp))]
      by_cases hd : d = 0
      · subst hd
        rw [if_neg (by decide)]
        repeat rw [if_neg (fun e => absurd h (by subst e; simp))]
      · rw [if_pos hd]
    · rw [if_pos ha]
  · rw [if_pos hr]

theorem reset : Statement .reset := fun _ => rfl
theorem reinit : Statement .reinit := fun _ => rfl
theorem restart : Statement .restart := fun _ => rfl
theorem readbits (n : BitVec 8) : Statement (.readbits n) := fun _ => by simp [encode, decode, decodeCommand]
theorem sync : Statement .sync := fun _ => rfl
theorem parseHeader : Statement .parseHeader := fun _ => rfl
theorem decodeFrame : Statement .decodeFrame := fun _ => rfl
theorem eqSetband (band : BitVec 8) (value : BitVec 32) : Statement (.eqSetband band value) := fun _ => by simp [encode, decode, decodeCommand]
theorem eqApply : Statement .eqApply := fun _ => rfl
theorem setOutput (sink : BitVec 32) : Statement (.setOutput sink) := fun _ => by simp [encode, decode, decodeCommand]
theorem getParam (sel : BitVec 8) (idx : BitVec 32) : Statement (.getParam sel idx) := fun _ => by simp [encode, decode, decodeCommand]
theorem illegalCmd (w : CmdWord) : Statement (.illegalCmd w) := fun h => illegal ((Bool.not_eq_true' _).mp h)
theorem readbit : Statement .readbit := fun _ => rfl
theorem nextHeader : Statement .nextHeader := fun _ => rfl
theorem setEqualizer (values : Vector (BitVec 32) 32) : Statement (.setEqualizer values) := fun _ => rfl
theorem decodeNext : Statement .decodeNext := fun _ => rfl
theorem frameL1 (h : HeaderFields) : Statement (.frameL1 h) := fun hw => header (eq_of_beq hw)
theorem frameL2 (h : HeaderFields) : Statement (.frameL2 h) := fun hw => header (eq_of_beq hw)
theorem frameL3 (h : HeaderFields) : Statement (.frameL3 h) := fun hw => header (eq_of_beq hw)
theorem hdrNoSync (h : HeaderFields) : Statement (.hdrNoSync h) := fun hw => header (eq_of_beq hw)
theorem hdrRsvVersion (h : HeaderFields) : Statement (.hdrRsvVersion h) := fun hw => header (eq_of_beq hw)
theorem hdrRsvLayer (h : HeaderFields) : Statement (.hdrRsvLayer h) := fun hw => header (eq_of_beq hw)
theorem hdrRsvBitrate (h : HeaderFields) : Statement (.hdrRsvBitrate h) := fun hw => header (eq_of_beq hw)
theorem hdrRsvRate (h : HeaderFields) : Statement (.hdrRsvRate h) := fun hw => header (eq_of_beq hw)
theorem hdrFreeFormat (h : HeaderFields) : Statement (.hdrFreeFormat h) := fun hw => header (eq_of_beq hw)
theorem blkNormal : Statement .blkNormal := fun _ => rfl
theorem blkStart (m : BitVec 1) : Statement (.blkStart m) := fun _ => rfl
theorem blkShort : Statement .blkShort := fun _ => rfl
theorem blkMixed : Statement .blkMixed := fun _ => rfl
theorem blkStop (m : BitVec 1) : Statement (.blkStop m) := fun _ => rfl
theorem blkReserved (m : BitVec 1) : Statement (.blkReserved m) := fun _ => rfl
theorem tsel0 : Statement .tsel0 := fun _ => rfl
theorem tsel1 : Statement .tsel1 := fun _ => rfl
theorem tsel2 : Statement .tsel2 := fun _ => rfl
theorem tsel3 : Statement .tsel3 := fun _ => rfl
theorem tsel4 : Statement .tsel4 := fun _ => rfl
theorem tsel5 : Statement .tsel5 := fun _ => rfl
theorem tsel6 : Statement .tsel6 := fun _ => rfl
theorem tsel7 : Statement .tsel7 := fun _ => rfl
theorem tsel8 : Statement .tsel8 := fun _ => rfl
theorem tsel9 : Statement .tsel9 := fun _ => rfl
theorem tsel10 : Statement .tsel10 := fun _ => rfl
theorem tsel11 : Statement .tsel11 := fun _ => rfl
theorem tsel12 : Statement .tsel12 := fun _ => rfl
theorem tsel13 : Statement .tsel13 := fun _ => rfl
theorem tsel14 : Statement .tsel14 := fun _ => rfl
theorem tsel15 : Statement .tsel15 := fun _ => rfl
theorem tsel16 : Statement .tsel16 := fun _ => rfl
theorem tsel17 : Statement .tsel17 := fun _ => rfl
theorem tsel18 : Statement .tsel18 := fun _ => rfl
theorem tsel19 : Statement .tsel19 := fun _ => rfl
theorem tsel20 : Statement .tsel20 := fun _ => rfl
theorem tsel21 : Statement .tsel21 := fun _ => rfl
theorem tsel22 : Statement .tsel22 := fun _ => rfl
theorem tsel23 : Statement .tsel23 := fun _ => rfl
theorem tsel24 : Statement .tsel24 := fun _ => rfl
theorem tsel25 : Statement .tsel25 := fun _ => rfl
theorem tsel26 : Statement .tsel26 := fun _ => rfl
theorem tsel27 : Statement .tsel27 := fun _ => rfl
theorem tsel28 : Statement .tsel28 := fun _ => rfl
theorem tsel29 : Statement .tsel29 := fun _ => rfl
theorem tsel30 : Statement .tsel30 := fun _ => rfl
theorem tsel31 : Statement .tsel31 := fun _ => rfl
theorem count1A : Statement .count1A := fun _ => rfl
theorem count1B : Statement .count1B := fun _ => rfl

end Sys2Proof.Laws.RoundTrip
end

