-- ==== Sys2Proof/Laws/Stream.lean ====
section
/-! SUPPORT. What pulling and reading bits of the stream can do. -/

-- One theorem after another: threads that wait for each other exhaust the memory limit with their stacks.
set_option Elab.async false

namespace Sys2Proof.Machine

open Act

/-! ## Pulling (R84, R181) -/

/-- Only `BR.pulled`, `BR.eod` and the count of free values may differ. -/
structure PullFrame (s t : State) : Prop where
  pos : t.br.pos = s.br.pos
  hdr : t.hdr = s.hdr
  frm : t.frm = s.frm
  ses : t.ses = s.ses
  eq : t.eq = s.eq
  sf : t.sf = s.sf
  outSink : t.outSink = s.outSink
  st : t.st = s.st
  fb : t.fb = s.fb
  res : t.res = s.res
  ov : t.ov = s.ov
  made : t.made = s.made
  tr : t.tr = s.tr
  seq : t.seq = s.seq
  src : t.src = s.src
  sinks : t.sinks = s.sinks
  cp : t.cp = s.cp
  ep : t.ep = s.ep
  cfg : t.cfg = s.cfg

theorem pullTo_frame (need : Nat) (s : State) : PullFrame s (pullTo need s) := by
  unfold pullTo
  split
  · constructor <;> rfl
  · dsimp only
    split <;> constructor <;> rfl

/-- The bytes that one pull asks for. -/
def wanted (need : Nat) (s : State) : Nat := min (need + prefetch s) (max need addressableBytes)

theorem need_le_wanted (need : Nat) (s : State) : need ≤ wanted need s := by unfold wanted; omega

/-- With the bytes at hand, or after the sentinel, nothing happens (R23). -/
theorem pullTo_same {need : Nat} {s : State} (h : s.br.eod = true ∨ need ≤ s.br.pulled.toNat) : pullTo need s = s := by
  unfold pullTo; rw [if_pos h]

/-- Else the reader pulls what it wants, or all there is. -/
theorem pullTo_br {need : Nat} {s : State} (h : ¬ (s.br.eod = true ∨ need ≤ s.br.pulled.toNat)) :
    (pullTo need s).br =
      { s.br with
        pulled := BitVec.ofNat 64 (min (wanted need s) s.src.bytes.length)
        eod := decide (s.src.bytes.length < wanted need s) } := by
  unfold pullTo wanted
  rw [if_neg h]
  simp only
  split <;> rfl

/-- A pull keeps the invariant of the bit reader, never unpulls, and delivers what is needed unless the stream ends. -/
theorem pullTo_inv {need : Nat} {s : State} (hi : BrInv s) (hn : need < 2 ^ 64) :
    BrInv (pullTo need s) ∧ s.br.pulled.toNat ≤ (pullTo need s).br.pulled.toNat ∧
      (need ≤ (pullTo need s).br.pulled.toNat ∨
        ((pullTo need s).br.eod = true ∧ (pullTo need s).br.pulled.toNat = s.src.bytes.length)) := by
  by_cases h : s.br.eod = true ∨ need ≤ s.br.pulled.toNat
  · rw [pullTo_same h]
    refine ⟨hi, Nat.le_refl _, ?_⟩
    obtain h | h := h
    · exact .inr ⟨h, hi.eod h⟩
    · exact .inl h
  · have hb := pullTo_br h
    have hp := hi.pos
    have hl := hi.pulled
    have hw := need_le_wanted need s
    have hw' : wanted need s < 2 ^ 64 := by
      have : addressableBytes < 2 ^ 64 := by decide
      unfold wanted
      omega
    push Not at h
    have hv : (BitVec.ofNat 64 (min (wanted need s) s.src.bytes.length)).toNat =
        min (wanted need s) s.src.bytes.length := by
      rw [BitVec.toNat_ofNat]; exact Nat.mod_eq_of_lt (by omega)
    have hf := pullTo_frame need s
    have hpul : (pullTo need s).br.pulled.toNat = min (wanted need s) s.src.bytes.length := by rw [hb]; exact hv
    have heod : (pullTo need s).br.eod = decide (s.src.bytes.length < wanted need s) := by rw [hb]
    refine ⟨⟨?_, ?_, ?_⟩, ?_, ?_⟩
    · rw [hf.pos, hpul]; omega
    · rw [hf.src, hpul]; omega
    · rw [hf.src, hpul, heod]
      intro h'
      have := of_decide_eq_true h'
      omega
    · rw [hpul]; omega
    · rw [hpul, heod]
      by_cases hc : s.src.bytes.length < wanted need s
      · by_cases hc' : need ≤ s.src.bytes.length
        · exact .inl (by omega)
        · exact .inr ⟨decide_eq_true hc, by omega⟩
      · exact .inl (by omega)

/-! ## Reading (R181) -/

/-- `ReadBits(n)`: the bits at the cursor, which moves past them, or `StreamExhausted` with the cursor in place. -/
theorem readBits_eq (n : Nat) (s : State) :
    readBits n s =
      if (pullTo (bytesFor (s.br.pos.toNat + n)) s).br.pulled.toNat < bytesFor (s.br.pos.toNat + n) then
        .error .streamExhausted (pullTo (bytesFor (s.br.pos.toNat + n)) s)
      else
        .ok (bitsAt s.src.bytes s.br.pos.toNat n)
          ((pullTo (bytesFor (s.br.pos.toNat + n)) s).withPos (s.br.pos.toNat + n)) := rfl

theorem bytesFor_le (p : Nat) : p ≤ 8 * bytesFor p := by unfold bytesFor; omega

/-- The cursor moved to a place that is covered. -/
theorem brInv_withPos {s : State} (hi : BrInv s) {p : Nat} (h : p ≤ 8 * s.br.pulled.toNat) : BrInv (s.withPos p) := by
  refine ⟨?_, hi.pulled, hi.eod⟩
  have : (BitVec.ofNat 64 p).toNat ≤ p := by rw [BitVec.toNat_ofNat]; exact Nat.mod_le _ _
  exact Nat.le_trans this h

end Sys2Proof.Machine
end

