-- ==== Sys2Proof/Tests/Slice0.lean ====
section
/-! SUPPORT. Tests: the checks of `WellFormed`, a word of every row written out from 30_encoding.md, single steps whose
results are the vectors of 95_test_vectors.md, and for every obligation with hypotheses states that meet them. -/

-- One theorem after another: threads that wait for each other exhaust the memory limit with their stacks.
set_option Elab.async false

namespace Sys2Proof.Tests

open Sys2Proof.Machine

set_option maxRecDepth 100000

/-! ## Small states -/

/-- A window that a kernel evaluation can read; no test depends on its values. -/
def config : Config := { Config.default with synthWindow := Vector.replicate 512 Machine.Num.zero }

/-- The value of a binary32 pattern. -/
def val (w : BitVec 32) : Sample := Num.ofBinary32 .binary32 w

def bytes (xs : List Nat) : List Byte := xs.map (BitVec.ofNat 8)

/-- The reset state with a byte source. -/
def start (xs : List Nat) : State :=
  { State.reset with cfg := config, src := { bytes := bytes xs, upcoming := none } }

/-- The same with the bit cursor at p. -/
def startAt (p : Nat) (xs : List Nat) : State :=
  { start xs with br := { pulled := BitVec.ofNat 64 (bytesFor p), eod := false, pos := BitVec.ofNat 64 p } }

/-- A header held and consumed, its body in front of the cursor. -/
def held (w : HeaderWord) (body : List Nat) : State :=
  { start ([w.extractLsb' 24 8, w.extractLsb' 16 8, w.extractLsb' 8 8, w.extractLsb' 0 8].map (·.toNat) ++ body) with
    br := { pulled := 4, eod := false, pos := 32 }
    hdr := { word := w, start := 0, valid := true }
    frm := headerFrm true (splitHeader w) false
    outSink := 1 }

/-- Layer I, mono, 32 bytes (the frame of program G1). -/
def heldL1 : State := held 0xFFFF10C0 (List.replicate 28 0)
/-- Layer I, mono, 64000 bit/s, 68 bytes. -/
def heldL1Long : State := held 0xFFFF20C0 (List.replicate 64 0)
/-- Layer II, mono, 104 bytes (L2-3). -/
def heldL2 : State := held 0xFFFD10C0 (List.replicate 100 0)
/-- Layer III, mono, 144 bytes (R1). -/
def heldL3 : State := held 0xFFFB18C0 (List.replicate 140 0)
/-- The same with `main_data_begin` = 1 (R2). -/
def heldL3Back : State := held 0xFFFB18C0 (0 :: 0x80 :: List.replicate 138 0)

/-- One step with this request. -/
def request1 (op : HostOp) (s : State) : State :=
  match step { s with cp := { s.cp with ops := [op] } } with
  | .next t => t
  | _ => s

/-- One step with this command word. -/
def command (w : CmdWord) (s : State) : State := request1 (.command w) s

/-- The newest result word. -/
def result (s : State) : CmdWord := s.cp.results.headD 0

/-- X is within 1.5e-6 of a printed value: between two patterns. -/
def between (lo : BitVec 32) (x : Sample) (hi : BitVec 32) : Bool := Num.le (val lo) x && Num.le x (val hi)

/-! ## WellFormed: an ill-formed term for each check -/

theorem test_wellFormed_readbits :
    wellFormed (.readbits 0) = false ∧ wellFormed (.readbits 33) = false ∧
      wellFormed (.readbits 1) = true ∧ wellFormed (.readbits 32) = true := by decide

theorem test_wellFormed_setOutput : wellFormed (.setOutput 256) = false ∧ wellFormed (.setOutput 255) = true := by
  decide

theorem test_wellFormed_getParam :
    wellFormed (.getParam 28 0) = false ∧ wellFormed (.getParam 22 32) = false ∧
      wellFormed (.getParam 23 32) = false ∧ wellFormed (.getParam 0 1) = false ∧
      wellFormed (.getParam 22 31) = true ∧ wellFormed (.getParam 27 0) = true := by decide

/-- A legal word is no illegal command: one word per row of R122. -/
theorem test_wellFormed_illegalCmd :
    ([0x0100000000000000, 0x0200000000000000, 0x0300000000000000, 0x1003000000000000, 0x1100000000000000,
      0x1200000000000000, 0x2000000000000000, 0x30030000C0200000, 0x3100000000000000, 0x4000000000000001,
      0x5016000000000003].all fun w => !wellFormed (.illegalCmd w)) = true := by decide

/-- Each header row with a header of another row. -/
theorem test_wellFormed_headerRows :
    wellFormed (.frameL1 (splitHeader 0xFFFB9000)) = false ∧ wellFormed (.frameL2 (splitHeader 0xFFFF10C0)) = false ∧
      wellFormed (.frameL3 (splitHeader 0xFFFD10C0)) = false ∧ wellFormed (.hdrNoSync (splitHeader 0xFFFB9000)) = false ∧
      wellFormed (.hdrRsvVersion (splitHeader 0xFFFB9000)) = false ∧
      wellFormed (.hdrRsvLayer (splitHeader 0xFFEB9000)) = false ∧
      wellFormed (.hdrRsvBitrate (splitHeader 0xFFF9F000)) = false ∧
      wellFormed (.hdrRsvRate (splitHeader 0xFFFBF000)) = false ∧
      wellFormed (.hdrFreeFormat (splitHeader 0xFFFB0C00)) = false := by decide

/-! ## Decoding: words written out from R121, R122, R131, R133, R136, R142, R155 -/

theorem test_decode_commands :
    decodeTableWord 64 0x0100000000000000 = some .reset ∧ decodeTableWord 64 0x0200000000000000 = some .reinit ∧
      decodeTableWord 64 0x0300000000000000 = some .restart ∧
      decodeTableWord 64 0x1003000000000000 = some (.readbits 3) ∧
      decodeTableWord 64 0x1100000000000000 = some .sync ∧
      decodeTableWord 64 0x1200000000000000 = some .parseHeader ∧
      decodeTableWord 64 0x2000000000000000 = some .decodeFrame ∧
      decodeTableWord 64 0x30030000C0200000 = some (.eqSetband 3 0xC0200000) ∧
      decodeTableWord 64 0x3100000000000000 = some .eqApply ∧
      decodeTableWord 64 0x4000000000000002 = some (.setOutput 2) ∧
      decodeTableWord 64 0x5016000000000005 = some (.getParam 22 5) := by decide

/-- `READBITS 17`, bit by bit: op 0x10, a = 17, rsv, d. -/
theorem test_decode_readbits_bits :
    decodeTableWord 64 0b0001000000010001000000000000000000000000000000000000000000000000 = some (.readbits 17) := by
  decide

/-- An opcode that is none, a reserved bit, an operand that must be 0 (R126). -/
theorem test_decode_illegal :
    decodeTableWord 64 0x0000000000000000 = some (.illegalCmd 0) ∧
      decodeTableWord 64 0x2000000100000000 = some (.illegalCmd 0x2000000100000000) ∧
      decodeTableWord 64 0x1101000000000000 = some (.illegalCmd 0x1101000000000000) ∧
      decodeTableWord 64 0x1003000000000001 = some (.illegalCmd 0x1003000000000001) ∧
      decodeTableWord 64 0x4001000000000000 = some (.illegalCmd 0x4001000000000000) := by decide

theorem test_decode_pseudo :
    decode .eleven (.pseudo .readbit) = .readbit ∧ decode .eleven (.pseudo .nextHeader) = .nextHeader ∧
      decode .eleven (.pseudo .decodeNext) = .decodeNext ∧
      decode .eleven (.pseudo (.setEqualizer (Vector.replicate 32 0))) = .setEqualizer (Vector.replicate 32 0) := by
  decide

/-- sync, version 11, layer 01, protection 1, bitrate 1001, rate 00, padding 0, private 0, mode 01, mode_ext 10,
copyright 0, original 1, emphasis 00 (vector H22). -/
theorem test_decode_frameL3_bits :
    decodeTableWord 32 0b11111111111110111001000001100100 =
      some (.frameL3 ⟨0x7FF, 3, 1, 1, 9, 0, 0, 0, 1, 2, 0, 1, 0⟩) := by decide

theorem test_decode_headers :
    decodeTableWord 32 0xFFFF10C0 = some (.frameL1 ⟨0x7FF, 3, 3, 1, 1, 0, 0, 0, 3, 0, 0, 0, 0⟩) ∧
      decodeTableWord 32 0xFFFD10C0 = some (.frameL2 ⟨0x7FF, 3, 2, 1, 1, 0, 0, 0, 3, 0, 0, 0, 0⟩) ∧
      decodeTableWord 32 0xFEFB9000 = some (.hdrNoSync ⟨0x7F7, 3, 1, 1, 9, 0, 0, 0, 0, 0, 0, 0, 0⟩) ∧
      decodeTableWord 32 0xFFEB9000 = some (.hdrRsvVersion ⟨0x7FF, 1, 1, 1, 9, 0, 0, 0, 0, 0, 0, 0, 0⟩) ∧
      decodeTableWord 32 0xFFF99000 = some (.hdrRsvLayer ⟨0x7FF, 3, 0, 1, 9, 0, 0, 0, 0, 0, 0, 0, 0⟩) ∧
      decodeTableWord 32 0xFFFBF000 = some (.hdrRsvBitrate ⟨0x7FF, 3, 1, 1, 15, 0, 0, 0, 0, 0, 0, 0, 0⟩) ∧
      decodeTableWord 32 0xFFFB9C00 = some (.hdrRsvRate ⟨0x7FF, 3, 1, 1, 9, 3, 0, 0, 0, 0, 0, 0, 0⟩) ∧
      decodeTableWord 32 0xFFFB0000 = some (.hdrFreeFormat ⟨0x7FF, 3, 1, 1, 0, 0, 0, 0, 0, 0, 0, 0, 0⟩) := by decide

/-- With a pattern of 12 bits, MPEG-2.5 is no sync (H9). -/
theorem test_decode_header_twelve :
    decodeHeader .twelve 0xFFE31800 = .hdrNoSync (splitHeader 0xFFE31800) ∧
      decodeHeader .eleven 0xFFE31800 = .frameL3 (splitHeader 0xFFE31800) := by decide

theorem test_decode_blocks :
    decodeTableWord 8 0x80 = some .blkNormal ∧ decodeTableWord 8 0x88 = some (.blkReserved 0) ∧
      decodeTableWord 8 0x8A = some (.blkStart 0) ∧ decodeTableWord 8 0x8B = some (.blkStart 1) ∧
      decodeTableWord 8 0x8C = some .blkShort ∧ decodeTableWord 8 0x8D = some .blkMixed ∧
      decodeTableWord 8 0x8E = some (.blkStop 0) ∧ decodeTableWord 8 0x90 = none := by decide

theorem test_decode_tableSelect :
    ((List.range 32).map (decodeTableWord 8)) =
      ([.tsel0, .tsel1, .tsel2, .tsel3, .tsel4, .tsel5, .tsel6, .tsel7, .tsel8, .tsel9, .tsel10, .tsel11, .tsel12,
        .tsel13, .tsel14, .tsel15] ++
       [.tsel16, .tsel17, .tsel18, .tsel19, .tsel20, .tsel21, .tsel22, .tsel23, .tsel24, .tsel25, .tsel26, .tsel27,
        .tsel28, .tsel29, .tsel30, .tsel31] : List Instr).map some := by decide

theorem test_decode_count1 :
    decodeTableWord 8 0x40 = some .count1A ∧ decodeTableWord 8 0x41 = some .count1B ∧ decodeTableWord 8 0x20 = none := by
  decide

/-- What is no row's width, or too large, is rejected by name. -/
theorem test_decode_rejects :
    decodeBits .eleven 16 5 = .error (.wrongWidth 16) ∧ decodeBits .eleven 32 0x100000000 = .error (.tooLarge 0x100000000) ∧
      decodeBits .eleven 8 0x7F = .error (.notASelector 0x7F) := by
  exact ⟨rfl, rfl, rfl⟩

/-! ## Bit reader: vectors B1 to B15 -/

/-- B1, B5 -/
theorem test_readbits_value :
    result (command 0x1003000000000000 (start [0xA5, 0x3C])) = 0x5 ∧
      (command 0x1003000000000000 (start [0xA5, 0x3C])).br = { pulled := 1, eod := false, pos := 3 } ∧
      result (command 0x1020000000000000 (start [0xDE, 0xAD, 0xBE, 0xEF])) = 0xDEADBEEF := by decide +kernel

/-- B3, B14 -/
theorem test_readbits_end :
    result (command 0x1007000000000000 (startAt 10 [0xA5, 0x3C])) = 0x0100000000000000 ∧
      (command 0x1007000000000000 (startAt 10 [0xA5, 0x3C])).br = { pulled := 2, eod := true, pos := 10 } ∧
      (command 0x1001000000000000 (start [])).br = { pulled := 0, eod := true, pos := 0 } := by decide +kernel

/-- B7, B8 -/
theorem test_readbits_illegal :
    result (command 0x1000000000000000 (start [1])) = 0x0A00000000000000 ∧
      result (command 0x1021000000000000 (start [1])) = 0x0A00000000000000 := by decide +kernel

/-- B9, B11 -/
theorem test_sync :
    (command 0x1100000000000000 (start [0, 0xFF, 0, 0xFF, 0xFB, 0x90, 0])).br =
      { pulled := 5, eod := false, pos := 24 } ∧
    (command 0x1100000000000000 (startAt 25 [0, 0xFF, 0, 0xFF, 0xFB, 0x90, 0])).br =
      { pulled := 7, eod := true, pos := 56 } := by decide +kernel

/-- B12 with both widths of the pattern -/
theorem test_sync_bits :
    result (command 0x1100000000000000 (start [0xFF, 0xE0])) = 0 ∧
      result (command 0x1100000000000000
        { start [0xFF, 0xE0] with cfg := { config with syncBits := .twelve } }) = 0x0100000000000000 := by decide +kernel

/-- The first bit of A5 (R182). -/
theorem test_readbit : result (request1 (.pseudo .readbit) (start [0xA5])) = 1 := by decide +kernel

/-! ## Headers: vectors H1 to H20 -/

/-- H1 -/
theorem test_parseHeader :
    (command 0x1200000000000000 (start [0xFF, 0xFB, 0x90, 0])).frm =
      { version := 1, layer := 3, bitrate := 128000, rate := 44100, channels := 2, len := 417, spf := 1152,
        durUs := 26122, sideBytes := 32, vbr := false } ∧
    result (command 0x1200000000000000 (start [0xFF, 0xFB, 0x90, 0])) = 0xFFFB9000 := by decide +kernel

/-- H18 and H19: the rate test comes before the free-format test; 24 bits are no header. -/
theorem test_parseHeader_refuses :
    result (command 0x1200000000000000 (start [0xFF, 0xFB, 0x0C, 0])) = 0x0300000000000000 ∧
      (command 0x1200000000000000 (start [0xFF, 0xFB, 0x0C, 0])).br.pos = 8 ∧
      result (command 0x1200000000000000 (start [0xFF, 0xFB, 0x90])) = 0x0100000000000000 := by decide +kernel

/-- H12 to H17 as frames at the cursor. -/
theorem test_refused_rows :
    ([[0xFF, 0xFB, 0x9C, 0], [0xFF, 0xFB, 0, 0], [0xFF, 0xFB, 0xF0, 0], [0xFF, 0xEB, 0x90, 0], [0xFF, 0xF9, 0x90, 0],
      [0xFE, 0xFB, 0x90, 0]].map fun b => ((request1 .frame (start b)).st.code.toNat, (request1 .frame (start b)).br.pos.toNat)) =
      [(3, 8), (4, 8), (3, 8), (3, 8), (3, 8), (2, 8)] := by decide +kernel

/-- R213: the largest frame. -/
theorem test_largest_frame :
    headerLen true (splitHeader 0xFFFDEA00) = 1729 ∧ headerLen false (splitHeader 0xFFE5EA00) = 2881 := by decide

/-! ## Equalizer: vectors E1 to E9 -/

/-- E1 -/
theorem test_setband_clamps :
    rd (command 0x30030000C0200000 (start [])).eq 3 = val 0xBF800000 ∧
      rd (rd (command 0x30030000C0200000 (start [])).sf 0).eqf 3 = val 0x3F800000 := by decide +kernel

/-- E2, E3 -/
theorem test_setband_refuses :
    result (command 0x3020000000000000 (start [])) = 0x0800000000000000 ∧
      result (command 0x300000007FC00000 (start [])) = 0x0800000000000000 := by decide +kernel

/-- E9: 0.5 becomes the coefficient 1.5 in both filters. -/
theorem test_apply :
    rd (rd (command 0x3100000000000000 { start [] with eq := wr State.reset.eq 5 Num.half }).sf 0).eqf 5 = val 0x3FC00000 ∧
      rd (rd (command 0x3100000000000000 { start [] with eq := wr State.reset.eq 5 Num.half }).sf 1).eqf 5 = val 0x3FC00000 ∧
      rd (rd (command 0x3100000000000000 { start [] with eq := wr State.reset.eq 5 Num.half }).sf 1).eqf 6 = Num.one := by
  decide +kernel

/-- R239: 33 commands, 33 result words, every band muted. -/
theorem test_setEqualizer :
    (request1 (.pseudo (.setEqualizer (Vector.replicate 32 0xBF800000))) (start [])).cp.results =
      List.replicate 33 0 ∧
    rd (rd (request1 (.pseudo (.setEqualizer (Vector.replicate 32 0xBF800000))) (start [])).sf 1).eqf 31 = Machine.Num.zero := by
  decide +kernel

/-- R125, R124: the equalizer port refuses `DECODE_FRAME`, and the code is latched; the warning of the command that runs
meanwhile is still in its own result. -/
theorem test_eqPort :
    let s := eqwStep
      { warn .huffmanTableError (start []) with ep := { State.reset.ep with queue := [0x2000000000000000] } }
    s.ep.results = [0x0A00000000000000] ∧ s.st.code = 10 ∧ s.st.warn = 0 ∧
      result (endCommand .ok 0x180 s) = 0x0006000000000180 ∧ (endCommand .ok 0x180 s).st.warn = 6 := by decide +kernel

/-! ## Output and parameters: vectors F5 to F8 -/

/-- F5 -/
theorem test_setOutput :
    result (command 0x4000000000000100 (start [])) = 0x0A00000000000000 ∧
      (command 0x4000000000000001 (start [])).outSink = 1 := by decide +kernel

/-- F6, F7 -/
theorem test_getParam :
    result (command 0x501C000000000000 (start [])) = 0x0A00000000000000 ∧
      result (command 0x5004000000000000 (held 0xFFFB9000 [])) = 0x660A ∧
      result (command 0x5005000000000000 (held 0xFFFB9000 [])) = 0x1A := by decide +kernel

/-- F8 -/
theorem test_illegal : result (command 0x2000000100000000 (start [1])) = 0x0A00000000000000 := by decide +kernel

/-! ## Resets -/

/-- The bytes that were not pulled are the new stream; the session of G6 survives `RESTART`. -/
theorem test_restart :
    (command 0x0300000000000000 { startAt 12 [1, 2, 3] with ses := { init := true, channels := 1, rate := 44100, prevBitrate := 32000, vbr := true } }).ses =
      { init := true, channels := 1, rate := 44100, prevBitrate := 0, vbr := false } ∧
    (command 0x0300000000000000 (startAt 12 [1, 2, 3])).src.bytes = bytes [3] := by decide +kernel

/-- G6: `REINIT` ends the session and keeps the sink binding. -/
theorem test_reinit :
    (command 0x0200000000000000 heldL1).ses = State.reset.ses ∧ (command 0x0200000000000000 heldL1).outSink = 1 := by
  decide +kernel

theorem test_reset :
    (command 0x0100000000000000 heldL1).outSink = 0 ∧ (command 0x0100000000000000 heldL1).br = State.reset.br ∧
      result (command 0x0100000000000000 heldL1) = 0 := by decide +kernel

/-! ## Frames: vectors F1 to F4, L1, L2, R, U and the programs -/

/-- F1; F4: the cursor left the header. -/
theorem test_decodeFrame_needs_header :
    result (command 0x2000000000000000 (start [])) = 0x0500000000000000 ∧
      result (command 0x2000000000000000 { heldL1 with br := { heldL1.br with pos := 40, pulled := 5 } }) =
        0x0500000000000000 := by decide +kernel

/-- F2: the session is open, the header used up, the cursor in place. -/
theorem test_decodeFrame_truncated :
    result (command 0x2000000000000000 (held 0xFFFB9000 (List.replicate 100 0))) = 0x0100000000000000 ∧
      (command 0x2000000000000000 (held 0xFFFB9000 (List.replicate 100 0))).ses =
        { init := true, channels := 2, rate := 44100, prevBitrate := 0, vbr := false } ∧
      (command 0x2000000000000000 (held 0xFFFB9000 (List.replicate 100 0))).br =
        { pulled := 104, eod := true, pos := 32 } := by decide +kernel

/-- G1, as the level 2 instruction at the cursor. -/
theorem test_frameL1 :
    (request1 .frame (start ([0xFF, 0xFF, 0x10, 0xC0] ++ List.replicate 28 0))).br.pos = 256 ∧
      result (request1 .frame (start ([0xFF, 0xFF, 0x10, 0xC0] ++ List.replicate 28 0))) = 0x180 := by decide +kernel

/-- G1: `currentSize` after a mono frame is `2 * FRM.spf * SES.channels` (R450). -/
theorem test_currentSize : (command 0x2000000000000000 heldL1).sinkSize 1 = 768 := by decide +kernel

/-- The second step of an `EQ_APPLY` on the equalizer port writes the second filter and delivers its result (R103). -/
theorem test_eqPort_apply :
    (eqwSteps 2 { start [] with
      eq := wr State.reset.eq 5 Num.half
      ep := { State.reset.ep with queue := [0x3100000000000000] } }).ep.results = [0] ∧
    rd (rd (eqwSteps 2 { start [] with
      eq := wr State.reset.eq 5 Num.half
      ep := { State.reset.ep with queue := [0x3100000000000000] } }).sf 1).eqf 5 = val 0x3FC00000 := by decide +kernel

/-- L1-4: the forbidden allocation. -/
theorem test_frameL1_forbidden :
    result (command 0x2000000000000000 (held 0xFFFF10C0 (0xF0 :: List.replicate 27 0))) = 0x0300000000000000 ∧
      (command 0x2000000000000000 (held 0xFFFF10C0 (0xF0 :: List.replicate 27 0))).br.pos = 256 := by decide +kernel

/-- L2-3 -/
theorem test_frameL2 :
    result (command 0x2000000000000000 heldL2) = 0x480 ∧ (command 0x2000000000000000 heldL2).br.pos = 832 := by
  decide +kernel

/-- R1, R2 -/
theorem test_frameL3 :
    (command 0x2000000000000000 heldL3).res.length = 123 ∧
      result (command 0x2000000000000000 heldL3Back) = 0x0007000000000480 := by decide +kernel

/-- U3: `big_values` = 289. -/
theorem test_frameL3_bigValues :
    result (command 0x2000000000000000 (held 0xFFFB18C0 ([0, 0, 0, 2, 0x42] ++ List.replicate 135 0))) =
      0x0006000000000480 := by decide +kernel

/-- L1-1: `SCALE[3]` -/
theorem test_scale_one : scale .binary32 3 = Num.one ∧ scale .binary128 0 = Num.two := by decide +kernel

/-- L1-1: codes 0, 1, 2 of two bits give -0.666667, 0.0, 0.666667; L2-1: so do those of class 0, and the codes 0 and 4 of
class 1 give -0.8 and 0.8. -/
theorem test_dequant :
    between 0xBF2AAAC4 (dequant1 .binary32 0 2) 0xBF2AAA91 = true ∧ dequant1 .binary32 1 2 = Machine.Num.zero ∧
      between 0x3F2AAA91 (dequant1 .binary32 2 2) 0x3F2AAAC4 = true ∧
      between 0xBF2AAAC4 (dequant .binary32 0 2 3 1) 0xBF2AAA91 = true ∧
      (rd config.l2Quant 0).steps = 3 ∧ (rd config.l2Quant 0).bits = 2 ∧ (rd config.l2Quant 0).dExp = 1 ∧
      between 0xBF4CCCE6 (dequant .binary32 0 3 5 1) 0xBF4CCCB4 = true ∧
      between 0x3F4CCCB4 (dequant .binary32 4 3 5 1) 0x3F4CCCE6 = true := by decide +kernel

/-- R292: `sblimit` for 48, 56, 80, 81, 96 kbit/s per channel at 44100 Hz, 48 and 96 at 48000 Hz, 48 at 32000 Hz, and
LSF. -/
theorem test_allocTable :
    ([(1, 44100, 48), (1, 44100, 56), (1, 44100, 80), (1, 44100, 81), (1, 44100, 96), (1, 48000, 48), (1, 48000, 96),
      (1, 32000, 48), (2, 24000, 80)].map fun r => (allocTable defaultAlloc r.1 r.2.1 r.2.2).2) =
      [8, 27, 27, 12, 30, 8, 27, 12, 30] := by decide

/-- The conversion of 0.9, -0.9, 1.5, -1.5, 32766.9, -32767.9, NaN with truncation, and of 0.9 to nearest. -/
theorem test_toPcm :
    ([0x3F666666, 0xBF666666, 0x3FC00000, 0xBFC00000, 0x46FFFDCD, 0xC6FFFFCD, 0x7FC00000].map fun w =>
      Num.toPcm .binary32 .truncate (val w)) = [0, 0, 1, -1, 32766, -32767, 0] ∧
    Num.toPcm .binary32 .nearest (val 0x3F666666) = 1 := by decide +kernel

/-! ## Constants of the arithmetic -/

/-- 1/x -+ 1/(3 x^3) + 1/(5 x^5) -+ … in units of 2^-300, all signs + if `plus`. -/
def arcSeries (x : Nat) (plus : Bool) : (terms j : Nat) → Int
  | 0, _ => 0
  | terms + 1, j =>
    (if plus ∨ j % 2 = 0 then 1 else -1) * (2 ^ 300 / ((2 * j + 1) * x ^ (2 * j + 1)) : Nat) + arcSeries x plus terms (j + 1)

/-- Machin: PI = 16 arctan (1/5) - 4 arctan (1/239); ln 2 = 2 artanh (1/3). -/
theorem test_pi_and_ln2 :
    (16 * arcSeries 5 false 80 0 - 4 * arcSeries 239 false 30 0) / 2 ^ 44 = Num.piFix ∧
      2 * arcSeries 3 true 110 0 / 2 ^ 44 = Num.ln2Fix := by decide +kernel

/-! ## Level 3 -/

/-- The main-data window of U1, with the sequencer at its start and the given `end`. -/
def u1 (lim : Nat) : State :=
  { start [] with
    tr := { State.reset.tr with md := { bytes := bytes [0x13, 0x5C], base := 0, len := 2, pos := 0 } }
    seq := { State.reset.seq with lim := lim } }

def selector (x : Selector) (s : State) : State := request1 (.selector x) s

/-- U1: the first pair of book 1 is (-1, 1). -/
theorem test_tsel1 :
    ((List.range 3).map fun k => (rd (rd (selector (.tableSelect 1) (u1 14)).tr.is 0) k).toInt) = [-1, 1, 0] ∧
      (selector (.tableSelect 1) (u1 14)).tr.md.pos = 5 := by decide +kernel

/-- U5: with `end` = 4 the second sign does not fit. -/
theorem test_tsel1_truncated :
    (selector (.tableSelect 1) (u1 4)).st.warn = 6 ∧ (selector (.tableSelect 1) (u1 4)).st.gerr = 1 ∧
      (selector (.tableSelect 1) (u1 4)).seq.done = true := by decide +kernel

/-- U2: table 4 is reserved. -/
theorem test_tsel4 :
    (selector (.tableSelect 4) (u1 14)).st.warn = 6 ∧ (selector (.tableSelect 4) (u1 14)).seq.done = true := by
  decide +kernel

/-- Table 0 reads no bits. -/
theorem test_tsel0 :
    (selector (.tableSelect 0) (u1 14)).tr.md.pos = 0 ∧ (selector (.tableSelect 0) (u1 14)).seq.line = 2 := by
  decide +kernel

/-- The count1 word of U1: bits 8.. are `0101 1 1 00`, in book A (0, 0, 0, 1) with sign 1; book B takes 4 bits. -/
theorem test_count1 :
    ((List.range 4).map fun k => (rd (rd (selector (.count1Select 0)
      { u1 14 with tr := { (u1 14).tr with md := { (u1 14).tr.md with pos := 8 } } }).tr.is 0) k).toInt) = [0, 0, 0, -1] ∧
    (selector (.count1Select 1) (u1 14)).tr.md.pos = 7 := by decide +kernel

/-- A channel whose spectrum is 1.0 in line 0 (X7, X8). -/
def spectrum : State :=
  { start [] with
    frm := { State.reset.frm with rate := 44100 }
    tr := { State.reset.tr with xr := wr State.reset.tr.xr 0 (wr (Vector.replicate 576 Machine.Num.zero) 0 Num.one) } }

/-- X7: 0.029469, -0.674947 and the tail -0.736575. -/
theorem test_blkNormal :
    between 0x3CF165D4 (rd (rd (rd (selector .longBlock spectrum).tr.hy 0) 0) 0) 0x3CF16C1E = true ∧
      between 0xBF2CC96D (rd (rd (rd (selector .longBlock spectrum).tr.hy 0) 0) 17) 0xBF2CC93A = true ∧
      between 0xBF3C9047 (rd (rd (rd (selector .longBlock spectrum).ov 0) 0) 0) 0xBF3C9015 = true := by decide +kernel

/-- X8: 0, 0.079459, -0.103553 and a tail of 0. -/
theorem test_blkShort :
    rd (rd (rd (selector (.windowSwitched 2 0) spectrum).tr.hy 0) 0) 5 = Machine.Num.zero ∧
      between 0x3DA2BA9D (rd (rd (rd (selector (.windowSwitched 2 0) spectrum).tr.hy 0) 0) 6) 0x3DA2BC30 = true ∧
      between 0xBDD41462 (rd (rd (rd (selector (.windowSwitched 2 0) spectrum).tr.hy 0) 0) 9) 0xBDD412CF = true ∧
      rd (rd (rd (selector (.windowSwitched 2 0) spectrum).ov 0) 0) 0 = Machine.Num.zero := by decide +kernel

/-- The reserved kind. -/
theorem test_blkReserved : (selector (.windowSwitched 0 0) spectrum).st.warn = 6 := by decide +kernel

/-- X5: lines 48, 54, 60 come to 48, 49, 50. -/
theorem test_reorder :
    ((List.range 18).map fun k => reorderSource config 44100 0 (48 + k)) =
      [48, 54, 60, 49, 55, 61, 50, 56, 62, 51, 57, 63, 52, 58, 64, 53, 59, 65] := by decide +kernel

/-- Bands 4..7 and 8..11 around an empty one; lines 3 and 12 lie in none, and from band 1 on line 7 does (R391). -/
theorem test_bandOf :
    ([3, 4, 7, 8, 11, 12].map (bandOf [4, 8, 8, 12] 0 3)) = [none, some 0, some 0, some 2, some 2, none] ∧
      bandOf [4, 8, 8, 12] 1 3 7 = none := by decide

/-- X6: 0.857493 and -0.514496. -/
theorem test_alias :
    between 0x3F5B8490 (aliasLine .binary32 31 (wr (Vector.replicate 576 Machine.Num.zero) 17 Num.one) 17) 0x3F5B84C2 = true ∧
      between 0xBF03B61C (aliasLine .binary32 31 (wr (Vector.replicate 576 Machine.Num.zero) 17 Num.one) 18) 0xBF03B5E9 = true := by decide +kernel

/-- X2: -8 at gain 210 gives -16.0; gain 214, preflag, band 11, factor 3 gives -8.0. In binary32 `4.0 / 3.0` is rounded
before the power (R12), so the result is within 1.5e-6 of the printed one. -/
theorem test_requantize :
    between 0xC1800002 (requantized .binary32 (-8) 0) 0xC17FFFFC = true ∧
    exponent4 config 44100 { (default : Granule) with globalGain := 214, preflag := 1 }
      { (default : ScaleFactors) with l := wr default 11 3 } 0 62 = -4 ∧
    between 0xC1000002 (requantized .binary32 (-8) (-4)) 0xC0FFFFFC = true := by decide +kernel

/-- X3: M = S = 1.0. -/
theorem test_midSide : between 0x3FB504EA (midSide .binary32 Num.one Num.one).1 0x3FB50503 = true ∧ (midSide .binary32 Num.one Num.one).2 = Machine.Num.zero := by
  decide +kernel

/-- X4: position 1. -/
theorem test_intensity :
    between 0x3E586530 (intensityV1 .binary32 Num.one 1).1 0x3E5865F9 = true ∧
      between 0x3F49E682 (intensityV1 .binary32 Num.one 1).2 0x3F49E6B4 = true := by decide +kernel

/-- R410: the right channel of granule 1 is short, or mixed; what granule 0 left in its long factors reads as 0 from the
first band that is not sent. -/
def rightHand (g : Granule) : State :=
  { start [] with
    frm := { State.reset.frm with version := 1 }
    tr := { State.reset.tr with
      si := { State.reset.tr.si with g := Vector.replicate 2 (Vector.replicate 2 g) }
      scf := Vector.replicate 2 { (default : ScaleFactors) with l := Vector.replicate 23 5 } } }

theorem test_untransmitted_factors :
    ((List.range 22).map (rightLong (rightHand { (default : Granule) with windowSwitching := 1, blockType := 2 }) 1)) =
      List.replicate 22 0 ∧
    ((List.range 22).map (rightLong
        (rightHand { (default : Granule) with windowSwitching := 1, blockType := 2, mixedBlock := 1 }) 1)) =
      List.replicate 8 5 ++ List.replicate 14 0 ∧
    ((List.range 22).map (rightLong (rightHand default) 1)) = List.replicate 22 5 := by decide +kernel

/-! ## Witnesses

For every obligation with hypotheses, states and operands that meet them all, at boundary values where there are
ranges. -/

theorem held_inv (w : HeaderWord) (body : List Nat)
    (hc : headerClass .eleven (splitHeader w) ∈ [.layer1, .layer2, .layer3]) : Inv (held w body) where
  br := ⟨by simp [held, start, config, bytes, Config.default], by simp [held, start, bytes], by simp [held]⟩
  held := fun _ => ⟨hc, rfl⟩
  eq := by
    show ∀ i < 32, Num.le Num.minusOne (rd State.reset.eq i) = true ∧ Num.le (rd State.reset.eq i) Num.one = true
    decide
  ses := ⟨fun _ => ⟨rfl, rfl, rfl⟩, fun h => by simp [held, start, State.reset, resetValues] at h⟩
  res := ⟨Nat.zero_le _, fun _ => rfl⟩
  st := ⟨List.mem_cons_self, List.mem_cons_self, List.mem_cons_self⟩
  sink := ⟨.inr (show (1 : BitVec 8).toNat < State.reset.cfg.nSinks.val by decide),
    rd_replicate _ 0 (by decide)⟩
  vbr := fun h => by simp [held, headerFrm] at h
  fb := Nat.zero_le _

theorem heldL1_inv : Inv heldL1 := held_inv _ _ (by decide)
theorem heldL1Long_inv : Inv heldL1Long := held_inv _ _ (by decide)
theorem heldL2_inv : Inv heldL2 := held_inv _ _ (by decide)
theorem heldL3_inv : Inv heldL3 := held_inv _ _ (by decide)
theorem heldL3Back_inv : Inv heldL3Back := held_inv _ _ (by decide)

theorem heldL1_ready : FrameReady heldL1 := ⟨by decide, by decide, by decide, by decide, by decide, by decide⟩
theorem heldL1Long_ready : FrameReady heldL1Long := ⟨by decide, by decide, by decide, by decide, by decide, by decide⟩
theorem heldL2_ready : FrameReady heldL2 := ⟨by decide, by decide, by decide, by decide, by decide, by decide⟩
theorem heldL3_ready : FrameReady heldL3 := ⟨by decide, by decide, by decide, by decide, by decide, by decide⟩
theorem heldL3Back_ready : FrameReady heldL3Back := ⟨by decide, by decide, by decide, by decide, by decide, by decide⟩

theorem startAt_brInv (p : Nat) (xs : List Nat) (hp : p ≤ 8 * xs.length) (h : p < 2 ^ 64) : BrInv (startAt p xs) where
  pos := by simp only [startAt, BitVec.toNat_ofNat, bytesFor]; omega
  pulled := by simp only [startAt, start, bytes, BitVec.toNat_ofNat, bytesFor, List.length_map]; omega
  eod := by simp [startAt]

theorem witness_EncodedInstructionDecodes :
    wellFormed (.readbits 32) = true ∧ wellFormed (.getParam 23 31) = true ∧ wellFormed (.illegalCmd 0) = true ∧
      wellFormed (.frameL3 (splitHeader 0xFFFB9000)) = true := by decide

theorem witness_StepRunsDecodedInstruction :
    (request (.command 0) State.reset).cp.ops = .command 0 :: [] ∧
      (request (.pseudo .readbit) State.reset).cp.ops = .pseudo .readbit :: [] ∧
      (request (.selector .longBlock) State.reset).cp.ops = .selector .longBlock :: [] ∧
      State.reset.cp.ops = [] := ⟨rfl, rfl, rfl, rfl⟩

/-- The three cases of `HostOp.present`: nothing pulled, one byte pulled, nothing pulled but the end of data met. -/
theorem witness_StepRunsDecodedInstruction_present :
    (request (.present []) State.reset).cp.ops = .present [] :: [] ∧
      State.reset.br.pulled = 0 ∧ State.reset.br.eod = false ∧
      (request (.present [0xFF]) (startAt 8 [1])).cp.ops = .present [0xFF] :: [] ∧
      (startAt 8 [1]).br.pulled = 1 ∧
      (request (.present [0xFF]) (request1 .frame (start []))).cp.ops = .present [0xFF] :: [] ∧
      (request1 .frame (start [])).br.pulled = 0 ∧ (request1 .frame (start [])).br.eod = true := by decide +kernel

/-- Four bytes are just enough, three are not. -/
theorem witness_StepRunsFrameAtCursor :
    BrInv (request .frame (startAt 0 [0xFF, 0xFB, 0x90, 0])) ∧
      (request .frame (startAt 0 [0xFF, 0xFB, 0x90, 0])).cp.ops = .frame :: [] ∧
      (startAt 0 [0xFF, 0xFB, 0x90, 0]).br.pos.toNat + 32 ≤ 8 * (startAt 0 [0xFF, 0xFB, 0x90, 0]).src.bytes.length ∧
      BrInv (request .frame (startAt 0 [0xFF, 0xFB, 0x90])) ∧
      (request .frame (startAt 0 [0xFF, 0xFB, 0x90])).cp.ops = .frame :: [] ∧
      8 * (startAt 0 [0xFF, 0xFB, 0x90]).src.bytes.length < (startAt 0 [0xFF, 0xFB, 0x90]).br.pos.toNat + 32 := by
  refine ⟨⟨?_, ?_, ?_⟩, rfl, by decide, ⟨?_, ?_, ?_⟩, rfl, by decide⟩ <;> decide

theorem witness_StepKeepsInvariant : ∃ t, Inv heldL1 ∧ step heldL1 = .next t := ⟨_, heldL1_inv, rfl⟩

/-- 1 and 32 bits, each the last that are left. -/
theorem witness_ReadbitsReturnsTheNextBits :
    BrInv (startAt 7 [1]) ∧ (startAt 7 [1]).br.pos.toNat + 1 ≤ 8 * (startAt 7 [1]).src.bytes.length ∧
      BrInv (startAt 0 [1, 2, 3, 4]) ∧
      (startAt 0 [1, 2, 3, 4]).br.pos.toNat + 32 ≤ 8 * (startAt 0 [1, 2, 3, 4]).src.bytes.length :=
  ⟨startAt_brInv _ _ (by decide) (by decide), by decide, startAt_brInv _ _ (by decide) (by decide), by decide⟩

/-- One bit missing. -/
theorem witness_ReadbitsPastTheEnd :
    BrInv (startAt 8 [1]) ∧ 8 * (startAt 8 [1]).src.bytes.length < (startAt 8 [1]).br.pos.toNat + 1 ∧
      BrInv (startAt 1 [1, 2, 3, 4]) ∧
      8 * (startAt 1 [1, 2, 3, 4]).src.bytes.length < (startAt 1 [1, 2, 3, 4]).br.pos.toNat + 32 :=
  ⟨startAt_brInv _ _ (by decide) (by decide), by decide, startAt_brInv _ _ (by decide) (by decide), by decide⟩

theorem witness_SplitReadsConcatenate :
    ∃ t u, exec (.readbits (BitVec.ofNat 8 1)) (start [0xDE, 0xAD, 0xBE, 0xEF]) = .next t ∧ t.st.code = 0 ∧
      exec (.readbits (BitVec.ofNat 8 31)) t = .next u ∧ u.st.code = 0 :=
  ⟨_, _, rfl, by decide +kernel, rfl, by decide +kernel⟩

/-- A pattern in the last two bytes, one byte after the cursor's. -/
theorem witness_SyncFindsTheFirstPattern :
    BrInv (startAt 1 [0xFF, 0xFF, 0xE0]) ∧ bytesFor (startAt 1 [0xFF, 0xFF, 0xE0]).br.pos.toNat ≤ 1 ∧
      PatternAt (startAt 1 [0xFF, 0xFF, 0xE0]) 1 ∧
      ∀ q, bytesFor (startAt 1 [0xFF, 0xFF, 0xE0]).br.pos.toNat ≤ q → q < 1 →
        ¬ PatternAt (startAt 1 [0xFF, 0xFF, 0xE0]) q :=
  ⟨startAt_brInv _ _ (by decide) (by decide), by decide, ⟨by decide, by decide, by decide⟩, fun q h k => by
    simp [startAt, bytesFor] at h; omega⟩

theorem witness_SyncWithoutAPattern :
    BrInv (startAt 0 [0xFF]) ∧ 8 * (startAt 0 [0xFF]).src.bytes.length < 2 ^ 64 ∧
      ∀ q, bytesFor (startAt 0 [0xFF]).br.pos.toNat ≤ q → ¬ PatternAt (startAt 0 [0xFF]) q :=
  ⟨startAt_brInv _ _ (by decide) (by decide), by decide, fun q _ h => by
    have := h.1; simp [startAt, start, bytes] at this⟩

theorem witness_ParseHeaderAccepts :
    BrInv (startAt 0 [0xFF, 0xFB, 0x90, 0]) ∧
      (0xFFFB9000 : HeaderWord) = BitVec.ofNat 32 (bitsAt (startAt 0 [0xFF, 0xFB, 0x90, 0]).src.bytes 0 32) ∧
      headerClass (startAt 0 [0xFF, 0xFB, 0x90, 0]).cfg.syncBits (splitHeader 0xFFFB9000) ∈
        [.layer1, .layer2, .layer3] :=
  ⟨startAt_brInv _ _ (by decide) (by decide), by decide, by decide⟩

/-- For `AcceptedHeaderSizes`, `AcceptedHeaderLength` and `VbrFlagFollowsTheBitrates`. -/
theorem witness_AcceptedHeader :
    ∃ t, exec .parseHeader (start [0xFF, 0xFB, 0x90, 0]) = .next t ∧ t.st.code = 0 := ⟨_, rfl, by decide +kernel⟩

/-- For the last clause of `VbrFlagFollowsTheBitrates`. -/
theorem witness_VbrFlag :
    ∃ t, Instr.sync ∉ [Instr.restart, .reinit, .reset] ∧
      exec .sync { start [] with ses := { State.reset.ses with vbr := true } } = .next t :=
  ⟨_, by decide, rfl⟩

theorem witness_FrameLengthRange :
    headerClass .eleven (splitHeader 0xFFF31400) ∈ [.layer1, .layer2, .layer3] ∧
      headerClass .eleven (splitHeader 0xFFE5EA00) ∈ [.layer1, .layer2, .layer3] := by decide

theorem witness_ParseHeaderRefuses :
    BrInv (startAt 0 [0xFF, 0xFB, 0x9C, 0]) ∧
      (0xFFFB9C00 : HeaderWord) = BitVec.ofNat 32 (bitsAt (startAt 0 [0xFF, 0xFB, 0x9C, 0]).src.bytes 0 32) ∧
      headerVerdict (startAt 0 [0xFF, 0xFB, 0x9C, 0]).cfg.syncBits 0xFFFB9C00 ≠ .ok ∧
      BrInv (startAt 0 [0xFF, 0xFB, 0x90]) ∧ 8 * (startAt 0 [0xFF, 0xFB, 0x90]).src.bytes.length < 0 + 32 :=
  ⟨startAt_brInv _ _ (by decide) (by decide), by decide, by decide, startAt_brInv _ _ (by decide) (by decide), by decide⟩

theorem witness_HeaderRowsEnd_refused : 32 ≤ (startAt 32 [0xFF, 0xFB, 0x9C, 0]).br.pos.toNat := by decide

theorem witness_HeaderRowsEnd_frames :
    headerClass State.reset.cfg.syncBits (splitHeader 0xFFFF10C0) = .layer1 ∧
      headerClass State.reset.cfg.syncBits (splitHeader 0xFFFD10C0) = .layer2 ∧
      headerClass State.reset.cfg.syncBits (splitHeader 0xFFFB18C0) = .layer3 := by decide

theorem witness_DecodeFrameNeedsHeaderAndSession :
    ¬ (State.reset.hdr.valid = true ∧ State.reset.br.pos = State.reset.hdr.start + 32 ∧ State.reset.frm.layer ≠ 0) ∧
      heldL1.hdr.valid = true ∧ heldL1.br.pos = heldL1.hdr.start + 32 ∧ heldL1.frm.layer ≠ 0 ∧ heldL1.bodyEnd < 2 ^ 64 ∧
      heldL1.frm.channels ≠ 2 := by decide

/-- An open session with other channels, and one with another rate, than the frame in front of the cursor. -/
def inSession (channels : BitVec 2) (rate : BitVec 32) : State :=
  { heldL1 with ses := { init := true, channels := channels, rate := rate, prevBitrate := 32000, vbr := false } }

theorem witness_DecodeFrameAgainstTheSession :
    (∀ u ∈ [inSession 2 44100, inSession 1 48000],
      u.hdr.valid = true ∧ u.br.pos = u.hdr.start + 32 ∧ u.frm.layer ≠ 0 ∧ u.bodyEnd < 2 ^ 64 ∧ u.ses.init = true) ∧
    (inSession 2 44100).frm.channels ≠ (inSession 2 44100).ses.channels ∧
    (inSession 2 44100).frm.rate = (inSession 2 44100).ses.rate ∧
    (inSession 1 48000).frm.channels = (inSession 1 48000).ses.channels ∧
    (inSession 1 48000).frm.rate ≠ (inSession 1 48000).ses.rate := by decide

theorem witness_DecodeFrameOfATruncatedFrame :
    BrInv (held 0xFFFF10C0 (List.replicate 27 0)) ∧ (held 0xFFFF10C0 (List.replicate 27 0)).sessionAgrees = true ∧
      (held 0xFFFF10C0 (List.replicate 27 0)).frm.layer ≠ 0 ∧ (held 0xFFFF10C0 (List.replicate 27 0)).bodyEnd < 2 ^ 64 ∧
      8 * (held 0xFFFF10C0 (List.replicate 27 0)).src.bytes.length < (held 0xFFFF10C0 (List.replicate 27 0)).bodyEnd :=
  ⟨(held_inv _ _ (by decide)).br, by decide, by decide, by decide, by decide⟩

/-- For `DecodeFrameRunsItsLayer` and `DecodeFrameWritesItsSamples`. -/
theorem witness_DecodeFrame :
    ∃ t, Inv heldL1 ∧ FrameReady heldL1 ∧ exec .decodeFrame heldL1 = .next t ∧ t.st.code = 0 :=
  ⟨_, heldL1_inv, heldL1_ready, rfl, by decide +kernel⟩

/-- An error of the layer decoder (L1-4) and one of the checks. -/
theorem witness_DecodeFrameErrorsAreAtomic :
    ∃ t u, exec .decodeFrame (held 0xFFFF10C0 (0xF0 :: List.replicate 27 0)) = .next t ∧ t.st.code ≠ 0 ∧
      exec .decodeFrame State.reset = .next u ∧ u.st.code ≠ 0 :=
  ⟨_, _, rfl, by decide +kernel, rfl, by decide +kernel⟩

/-- For `LayerThreeFramesEndOk` and `ReservoirKeepsTheNewestBytes`. -/
theorem witness_LayerThreeFrames :
    ∃ t, Inv heldL3 ∧ FrameReady heldL3 ∧ heldL3.frm.layer = 3 ∧ exec .decodeFrame heldL3 = .next t :=
  ⟨_, heldL3_inv, heldL3_ready, by decide, rfl⟩

theorem witness_LayerThreeRow :
    Inv heldL3 ∧ 32 ≤ heldL3.br.pos.toNat ∧ headerClass heldL3.cfg.syncBits (splitHeader 0xFFFB18C0) = .layer3 ∧
      FrameReady (acceptHeader (splitHeader 0xFFFB18C0) (heldL3.br.pos - 32) heldL3) :=
  ⟨heldL3_inv, by decide, by decide, ⟨by decide, by decide, by decide, by decide, by decide, by decide⟩⟩

/-- The bodies of `LayerOneAndTwoFramesEndOk`: with a subband allocated, and of zeros (28 bytes: G1; 100 bytes: L2-3). -/
def soundL1 : State := held 0xFFFF10C0 (0x10 :: List.replicate 27 0)
def soundL2 : State := held 0xFFFD10C0 (0x10 :: List.replicate 99 0)

theorem witness_LayerOneAndTwoFramesEndOk :
    Inv soundL1 ∧ FrameReady soundL1 ∧ soundL1.frm.layer = 1 ∧ (layer1Plan (frameStart soundL1)).Fits1 ∧
      Inv soundL2 ∧ FrameReady soundL2 ∧ soundL2.frm.layer = 2 ∧
      (layer2Plan (frameStart soundL2)).Fits2 soundL2.cfg (frameStart soundL2).allocTable2.1 :=
  ⟨held_inv _ _ (by decide), ⟨by decide, by decide, by decide, by decide, by decide, by decide⟩, by decide,
    ⟨by decide +kernel, by decide +kernel, by decide +kernel⟩, held_inv _ _ (by decide),
    ⟨by decide, by decide, by decide, by decide, by decide, by decide⟩, by decide,
    ⟨by decide +kernel, by decide +kernel⟩⟩

theorem witness_ZeroFramesEndOk :
    (∀ b ∈ heldL1.bodyBytes, b = 0) ∧ (layer1Plan (frameStart heldL1)).codesEnd ≤ 8 * heldL1.bodyLen ∧
      (∀ b ∈ heldL2.bodyBytes, b = 0) ∧ (layer2Plan (frameStart heldL2)).codesEnd ≤ 8 * heldL2.bodyLen ∧
      FrameReady (acceptHeader (splitHeader 0xFFFF10C0) (heldL1.br.pos - 32) heldL1) ∧
      FrameReady (acceptHeader (splitHeader 0xFFFD10C0) (heldL2.br.pos - 32) heldL2) := by
  refine ⟨?_, by decide +kernel, ?_, by decide +kernel, ⟨?_, ?_, ?_, ?_, ?_, ?_⟩, ⟨?_, ?_, ?_, ?_, ?_, ?_⟩⟩ <;>
    decide +kernel

/-- A frame body in `FB`. -/
def inFb (s : State) (xs : List Nat) : State := { s with fb := { bytes := bytes xs, pos := 0 } }
def plan1 (xs : List Nat) : BodyPlan := layer1Plan (inFb heldL1 xs)
def plan2 (xs : List Nat) : BodyPlan := layer2Plan (inFb heldL2 xs)

/-- Clause by clause: code 15; 15 bytes for 16 of codes; index 63 with its last bit the last of the body; a body one bit
short and one that is just long enough. -/
theorem witness_LayerOneBodyIsRead :
    heldL1.nch = 1 ∧ (plan1 [0xF0]).size < 2 ^ 32 ∧
      (plan1 [0xF0]).codePos 1 ≤ (plan1 [0xF0]).size ∧ (plan1 [0xF0]).code 0 = 15 ∧
      (plan1 (List.replicate 15 0)).size < (plan1 (List.replicate 15 0)).codesEnd ∧
      (plan1 (0x10 :: List.replicate 15 0 ++ [0xFC])).allocated 0 = true ∧
      (plan1 (0x10 :: List.replicate 15 0 ++ [0xFC])).factor1 0 = 63 ∧
      (plan1 (0x10 :: List.replicate 15 0 ++ [0])).setPos1 12 = 158 ∧ (plan1 (0x10 :: List.replicate 18 0)).size = 152 ∧
      (plan1 (0x10 :: List.replicate 19 0)).size = 160 := by decide +kernel

theorem witness_LayerTwoBodyIsRead :
    heldL2.nch = 1 ∧ heldL2.allocTable2.2 = 8 ∧ (plan2 [0x10, 0, 0, 0x0F, 0xC0]).allocated 0 = true ∧
      0 < (plan2 [0x10, 0, 0, 0x0F, 0xC0]).sent 0 ∧
      (plan2 [0x10, 0, 0, 0x0F, 0xC0]).factorPos2 0 + 6 * (0 + 1) ≤ (plan2 [0x10, 0, 0, 0x0F, 0xC0]).size ∧
      (plan2 [0x10, 0, 0, 0x0F, 0xC0]).index2 0 0 = 63 ∧
      (plan2 [0x10, 0, 0, 0, 0]).size < (plan2 [0x10, 0, 0, 0, 0]).setPos2 heldL2.cfg heldL2.allocTable2.1 12 := by
  decide +kernel

/-- Eight bytes are enough for one MPEG-2 granule in mono, nine bits and one granule record: 72 bits; eight bytes are
not. -/
theorem witness_SideInformationIsRead :
    ({ heldL3 with frm := { heldL3.frm with version := 2 } } : State).nch = 1 ∧
      ({ heldL3 with frm := { heldL3.frm with version := 2 } } : State).ngr = 1 ∧
      0 + 9 + 1 * 1 * 63 ≤ 8 * (inFb heldL3 (List.replicate 9 0)).fb.bytes.length ∧
      8 * (inFb heldL3 (List.replicate 8 0)).fb.bytes.length < 0 + 9 + 1 * 1 * 63 := by decide

/-- The last clause; the first two hold of every state with at most two channels. -/
theorem witness_UnderRunSilencesTheFrame :
    Inv heldL3Back ∧ FrameReady heldL3Back ∧ heldL3Back.frm.layer = 3 ∧
      heldL3Back.reservoir.length < heldL3Back.mainDataBegin ∧ heldL3Back.nch ≤ 2 :=
  ⟨heldL3Back_inv, heldL3Back_ready, by decide, by decide +kernel, by decide⟩

/-- The last band, the first index that is none, a NaN and an infinity. -/
theorem witness_SetBand :
    (31 : BitVec 8).toNat < 32 ∧ Num.isNaN (Num.ofBinary32 .binary128 0x3F800000) = false ∧ 32 ≤ (32 : BitVec 8).toNat ∧
      Num.isNaN (Num.ofBinary32 .binary32 0x7F800001) = true ∧ Num.isNaN (val 0x7F800000) = false := by decide +kernel

/-- For `ApplyWritesBothFilters` and `SetEqualizerSetsEveryBand`. -/
theorem witness_ApplyWithIdleWriter : State.reset.ep.schedule = [] := rfl

/-- One word for each clause, and an `EQ_APPLY` between its steps. -/
theorem witness_EqualizerPortTakesItsTwoCommands :
    ({ State.reset.ep with queue := [0x3100000000000000] } : EqPort).halfApplied = false ∧
      ({ State.reset.ep with queue := [0x3100000000000000] } : EqPort).queue = 0x3100000000000000 :: [] ∧
      decodeCommand 0x30030000BF800000 = .eqSetband 3 0xBF800000 ∧
      decodeCommand 0x3100000000000000 = .eqApply ∧ decodeCommand 0x2000000000000000 = .decodeFrame ∧
      (eqwStep { start [] with ep := { State.reset.ep with queue := [0x3100000000000000] } }).ep.halfApplied = true := by
  decide +kernel

theorem witness_SynthesisCallAgesTheHistory : (1 : Nat) < 2 ∧ heldL1.outSink ≠ 0 := by decide

theorem witness_ZeroInZeroOut :
    heldL1.outSink ≠ 0 ∧ (∀ i < 1024, rd (rd heldL1.sf 1).v i = Machine.Num.zero) ∧
      ∀ k < 32, rd (rd heldL1.tr.sbs 1) k = Machine.Num.zero ∧ Num.isFinite (rd (rd heldL1.sf 1).eqf k) = true := by
  have hv : rd heldL1.sf 1 = resetValues.filter := rd_replicate _ 1 (by decide)
  have hs : rd heldL1.tr.sbs 1 = Vector.replicate 32 Machine.Num.zero := rd_replicate _ 1 (by decide)
  refine ⟨by decide, fun i hi => ?_, fun k hk => ⟨?_, ?_⟩⟩
  · rw [hv]; exact rd_replicate _ i hi
  · rw [hs]; exact rd_replicate _ k hk
  · rw [hv, show rd resetValues.filter.eqf k = Num.one from rd_replicate _ k hk]; rfl

theorem witness_PcmConversionCorners :
    Num.le (Num.ofNat .binary64 32767) (Num.ofNat .binary64 32767) = true ∧
      Num.le (Num.neg (Num.ofNat .binary64 32768)) (Num.neg (Num.ofNat .binary64 32768)) = true := by decide +kernel

theorem witness_SetOutput :
    (255 : BitVec 32).toNat < State.reset.cfg.nSinks.val ∧ State.reset.cfg.nSinks.val ≤ (256 : BitVec 32).toNat := by
  decide

/-- Both ends of the selectors and of the indices. -/
theorem witness_GetParam :
    (31 : BitVec 32).toNat < 32 ∧ 27 < (28 : BitVec 8).toNat ∧ 32 ≤ (32 : BitVec 32).toNat ∧ (1 : BitVec 32) ≠ 0 := by
  decide

theorem witness_IllegalCommandWordsChangeNothing :
    cmdRsv 0x2000000100000000 ≠ 0 ∧ cmdOp 0xFF00000000000000 ∉
      ([0x01, 0x02, 0x03, 0x10, 0x11, 0x12, 0x20, 0x30, 0x31, 0x40, 0x50] : List (BitVec 8)) ∧
      32 < (33 : BitVec 8).toNat := by decide

/-- A cursor at 2^64 - 1, and a header held 31 bits before it whose body ends beyond. -/
theorem witness_CursorOverflow :
    2 ^ 64 ≤ (startAt (2 ^ 64 - 1) []).br.pos.toNat + 1 ∧ 2 ^ 64 ≤ 8 * bytesFor (startAt (2 ^ 64 - 1) []).br.pos.toNat ∧
      2 ^ 64 ≤ ({ heldL1 with
        br := { pulled := 0, eod := false, pos := 0xFFFFFFFFFFFFFFFF }
        hdr := { heldL1.hdr with start := 0xFFFFFFFFFFFFFFDF } } : State).bodyEnd ∧
      (0xFFFFFFFFFFFFFFFF : BitVec 64) = 0xFFFFFFFFFFFFFFDF + 32 := by decide

theorem witness_ResetInput :
    (request .resetInput State.reset).cp.ops = .resetInput :: [] := rfl

theorem witness_NextHeader :
    BrInv (startAt 0 [0xFF, 0xFB, 0x90, 0]) ∧ PatternAt (startAt 0 [0xFF, 0xFB, 0x90, 0]) 0 ∧
      0 + 4 ≤ (startAt 0 [0xFF, 0xFB, 0x90, 0]).src.bytes.length ∧
      (startAt 0 [0xFF, 0xFB, 0x90, 0]).src.bytes.length < 2 ^ 60 ∧
      headerVerdict (startAt 0 [0xFF, 0xFB, 0x90, 0]).cfg.syncBits
        (BitVec.ofNat 32 (bitsAt (startAt 0 [0xFF, 0xFB, 0x90, 0]).src.bytes (8 * 0) 32)) = .ok :=
  ⟨startAt_brInv _ _ (by decide) (by decide), ⟨by decide, by decide, by decide⟩, by decide, by decide, by decide⟩

/-- A pair, and one that is cut; the last place for a pair. -/
theorem witness_TableSelectDecodesOnePair :
    (u1 14).seq.done = false ∧ (u1 14).seq.line ≤ 574 ∧ pairWord (u1 14).cfg 1 (u1 14).tr.md 5 0 = some ((-1, 1), 5) ∧
      pairWord (u1 14).cfg 1 (u1 14).tr.md 4 0 = none ∧ ¬ 574 < 574 ∧ 574 < 575 := by decide +kernel

theorem witness_Count1DecodesOneQuadruple :
    (u1 14).seq.done = false ∧ (u1 14).tr.md.pos.toNat < (u1 14).seq.lim ∧ (u1 14).seq.line ≤ 572 ∧
      quadWord (u1 14).cfg 0 (u1 14).tr.md 14 8 = some ((0, 0, 0, -1), 13) ∧
      quadWord (u1 14).cfg 0 (u1 14).tr.md 12 8 = none := by decide +kernel

theorem witness_LookupReadsTheCodeWord :
    PrefixFree (quadBook config 1) ∧ ∃ e ∈ quadBook config 1, 1 ≤ e.hlen ∧ 0 + e.hlen ≤ 14 ∧
      0 + e.hlen ≤ 8 * (u1 14).tr.md.len.toNat ∧ bitsAt (u1 14).tr.md.bytes 0 e.hlen = e.hcod := by
  refine ⟨?_, by decide +kernel⟩
  unfold PrefixFree
  decide +kernel

/-- Words that are found and one that is not, in a pair book and in both quad books. -/
theorem witness_PairAndQuadWordsAreRead :
    tableSelectRow 1 = some (1, 0) ∧ lookup (pairBook config 1) (u1 14).tr.md 14 0 = some ((1, 1), 3) ∧
      lookup (pairBook config 1) (u1 14).tr.md 2 0 = none ∧
      lookup (quadBook config 0) (u1 14).tr.md 14 8 = some (1, 12) ∧
      lookup (quadBook config 1) (u1 14).tr.md 3 0 = none := by decide +kernel

/-- A granule record of each block kind. -/
def gShort : Granule := { (default : Granule) with windowSwitching := 1, blockType := 2, scalefacCompress := 15 }
def gMixed : Granule := { gShort with mixedBlock := 1 }

/-- The main data of U1 with these granule records. -/
def withGranules (version : BitVec 2) (g : Granule) : State :=
  { u1 16 with
    hdr := { word := 0xFFFB9070, start := 0, valid := true }
    frm := { State.reset.frm with version := version, layer := 3, channels := 2, rate := 44100 }
    tr := { (u1 16).tr with si := { (u1 16).tr.si with g := Vector.replicate 2 (Vector.replicate 2 g) } } }

/-- A granule of `big_values` pairs of codebook 1, alone in 14 bits (R378). -/
def gPairs (big : BitVec 9) : Granule :=
  { (default : Granule) with part23Length := 14, bigValues := big, tableSelect := #v[1, 1, 1] }

/-- R376, test by test, each with a granule that just passes beside it: bits beyond the window; a reserved kind; 289 pairs; a
reserved codebook in a region with a pair, and in one without; a mixed block where `3 * SFB_SHORT[3]` is 36, and at 8000 Hz;
scale factors of 126 bits in a granule-channel of 16. -/
theorem test_granuleChecks :
    ([{ gPairs 2 with part23Length := 17 }, { gPairs 2 with part23Length := 16 }, { gPairs 2 with windowSwitching := 1 },
      gPairs 289, gPairs 288, { gPairs 2 with tableSelect := #v[4, 1, 1] }, { gPairs 2 with tableSelect := #v[1, 14, 4] },
      { gMixed with scalefacCompress := 0 }, gShort, { gShort with scalefacCompress := 0 }] : List Granule).map
        (fun g => granuleChecks 0 0 0 (withGranules 1 g)) =
      [some .reservoirUnderrun, none, some .huffmanTableError, some .huffmanTableError, none, some .huffmanTableError, none,
        none, some .huffmanTableError, none] ∧
    granuleChecks 0 0 0
      { withGranules 3 { gMixed with scalefacCompress := 0 } with
        frm := { (withGranules 3 gMixed).frm with rate := 8000 } } = some .huffmanTableError := by decide +kernel

/-- The region bounds of R363 of a long granule and of a short one, at both of their limits. -/
theorem witness_GranuleChecksInOrder :
    RegionEnds config 44100 { gPairs 288 with region0Count := 7, region1Count := 13 } 36 576 ∧
      RegionEnds config 44100 { gPairs 2 with region0Count := 15, region1Count := 7 } 4 4 ∧
      RegionEnds config 44100 { gShort with bigValues := 288 } 36 576 ∧
      RegionEnds config 44100 { gShort with bigValues := 18 } 36 36 := by
  refine ⟨⟨?_, ?_⟩, ⟨?_, ?_⟩, ⟨?_, ?_⟩, ⟨?_, ?_⟩⟩ <;> decide +kernel

/-- R378: the whole granule-channel of U1. -/
theorem test_decodeLines :
    ((List.range 12).map fun k => (rd (rd (decodeLines false 0 0 0 (withGranules 1 (gPairs 2))).tr.is 0) k).toInt) =
      [-1, 1, -1, 0, 0, 0, 0, -1, 0, 0, 0, 0] ∧
    rd (decodeLines false 0 0 0 (withGranules 1 (gPairs 2))).tr.nz 0 = 8 ∧
    (decodeLines false 0 0 0 (withGranules 1 (gPairs 2))).tr.md.pos = 14 := by decide +kernel

/-- One granule-channel that fails a check, one that passes them all. -/
theorem witness_GranuleChannelIsDecoded :
    granuleChecks 1 1 2 (withGranules 1 (gPairs 289)) = some .huffmanTableError ∧
      granuleChecks 1 1 2 (withGranules 1 (gPairs 2)) = none ∧
      2 + ((withGranules 1 (gPairs 2)).granule 1 1).part23Length.toNat < 2 ^ 32 := by decide +kernel

/-- The pairs and quadruples of R378, with their places; a second pair that is cut by an `end` at 7. -/
theorem witness_HuffmanRegionsAreDecoded :
    RegionEnds config 44100 (gPairs 2) 4 4 ∧ (gPairs 2).bigValues.toNat = 2 ∧
      pairWord config 1 (u1 14).tr.md 14 0 = some ((-1, 1), 5) ∧ pairWord config 1 (u1 14).tr.md 14 5 = some ((-1, 0), 8) ∧
      quadWord config 0 (u1 14).tr.md 14 8 = some ((0, 0, 0, -1), 13) ∧
      quadWord config 0 (u1 14).tr.md 14 13 = some ((0, 0, 0, 0), 14) ∧ 14 ≤ 14 ∧
      pairWord config 1 (u1 14).tr.md 7 0 = some ((-1, 1), 5) ∧ pairWord config 1 (u1 14).tr.md 7 5 = none := by
  refine ⟨⟨?_, ?_⟩, ?_⟩ <;> decide +kernel

/-- One and two channels; a frame that finds its bytes in the reservoir and one that does not. -/
theorem witness_LayerThreeGranulesAreDecoded :
    heldL3.nch = 1 ∧ (withGranules 1 default).nch = 2 ∧ Inv heldL3 ∧ FrameReady heldL3 ∧ heldL3.frm.layer = 3 ∧
      heldL3.mainDataBegin ≤ heldL3.reservoir.length ∧ Inv heldL3Back ∧ FrameReady heldL3Back ∧
      heldL3Back.reservoir.length < heldL3Back.mainDataBegin :=
  ⟨by decide, by decide, heldL3_inv, heldL3_ready, by decide, by decide +kernel, heldL3Back_inv, heldL3Back_ready,
    by decide +kernel⟩

theorem witness_ScaleFactors :
    blockKind ((withGranules 1 gShort).granule 1 1) = .short ∧ blockKind ((withGranules 1 gMixed).granule 1 1) = .mixed ∧
      blockKind ((withGranules 1 default).granule 1 1) = .normal ∧ (withGranules 2 gMixed).frm.version ≠ 1 ∧
      (withGranules 1 gShort).part2Length 1 1 = 126 ∧ (withGranules 2 gMixed).part2Length 0 1 = 27 := by decide +kernel

/-- The last line of the last band of each table, and the bands on either side of line 36. -/
theorem witness_RequantizeAppliesThePowerLaw :
    Ascending (sfbLong config 44100) ∧ Ascending (sfbShort config 44100) ∧ InLong config 44100 21 575 ∧
      InLong config 44100 7 35 ∧ InShort config 44100 12 2 575 ∧ InShort config 44100 3 0 36 := by
  refine ⟨?_, ?_, ?_, ?_, ?_, ?_⟩ <;> simp only [Ascending, InLong, InShort] <;> decide +kernel

/-- Joint stereo with both bits; the boundary is the first band for a silent channel, none for a full one. -/
theorem witness_StereoOfLongBlocks :
    (withGranules 1 default).jointStereo = true ∧ (withGranules 1 default).isBit = true ∧
      LongBoundary (withGranules 1 default) 0 0 ∧ LongBoundary (withGranules 1 default) 576 22 ∧
      LongBoundary (withGranules 1 default) 5 2 := by
  refine ⟨by decide, by decide, ?_, ?_, ?_⟩ <;> simp only [LongBoundary] <;> decide +kernel

/-- The right channel has one line that is not zero: 36, the first of band 3, window 0. -/
def rightLine36 : State :=
  { withGranules 1 gMixed with
    tr := { (withGranules 1 gMixed).tr with
      is := wr (withGranules 1 gMixed).tr.is 1 (wr (Vector.replicate 576 (0 : BitVec 16)) 36 1) } }

/-- So the boundary of window 0 is band 4. -/
theorem witness_StereoOfMixedBlocks : blockKind (rightLine36.granule 0 0) = .mixed ∧ ShortBoundary rightLine36 3 0 4 := by
  have hr (k : Nat) : rd (rd rightLine36.tr.is 1) k = rd (wr (Vector.replicate 576 (0 : BitVec 16)) 36 1) k := by
    rw [show rd rightLine36.tr.is 1 = wr (Vector.replicate 576 0) 36 1 from rd_wr_self _ _ _ (by decide)]
  have hs : ∀ sfb < 13, 4 ≤ sfb → ¬ InShort config 44100 sfb 0 36 := by simp only [InShort]; decide +kernel
  have h36 : InShort config 44100 3 0 36 := by simp only [InShort]; decide +kernel
  refine ⟨by decide +kernel, by decide, by decide, fun sfb k h4 hk => ?_, fun _ => ⟨36, h36, ?_⟩⟩
  · have h : k ≠ 36 := fun h => hs sfb hk.1 h4 (h ▸ hk)
    rw [hr, rd_wr_other _ _ _ _ (Ne.symm h)]
    by_cases hb : k < 576
    · exact rd_replicate _ k hb
    · exact rd_out _ _ (by omega)
  · rw [hr]; decide +kernel

/-- A right channel that is silent, and the same with line 36, the first of band 3, not zero. -/
theorem witness_StereoOfShortBlocks :
    (sfbShort config 44100).getD 13 0 = 192 ∧ (sfbShort config 44100).getD 3 0 = 12 ∧
      (∀ w < 3, ShortBoundary (withGranules 1 gMixed) 3 w 3) ∧ ShortBoundary (withGranules 1 gShort) 0 2 0 ∧
      ∃ k, InShort config 44100 3 0 k ∧ rd (wr (Vector.replicate 576 (0 : BitVec 16)) 36 1) k ≠ 0 := by
  have zero (g : Granule) (k : Nat) : rd (rd (withGranules 1 g).tr.is 1) k = 0 := by
    by_cases hk : k < 576
    · rw [show rd (withGranules 1 g).tr.is 1 = Vector.replicate 576 0 from rd_replicate _ 1 (by decide)]
      exact rd_replicate _ k hk
    · exact rd_out _ _ (by omega)
  refine ⟨by decide, by decide, fun w _ => ?_, ?_, 36, ?_, by decide +kernel⟩
  · exact ⟨by decide, by decide, fun _ k _ _ => zero _ k, fun h => absurd h (by decide)⟩
  · exact ⟨by decide, by decide, fun _ k _ _ => zero _ k, fun h => absurd h (by decide)⟩
  · simp only [InShort]; decide +kernel

theorem witness_ZeroSpectrumPlaysOutTheTail :
    ∀ k < 576, rd (rd State.reset.tr.xr State.reset.seqCh) k = Machine.Num.zero := by
  intro k hk
  rw [show rd State.reset.tr.xr State.reset.seqCh = Vector.replicate 576 Machine.Num.zero from
    rd_replicate _ 0 (by decide)]
  exact rd_replicate _ k hk

/-- The last line of the last band, and the bands on either side of line 36. -/
theorem witness_ReorderMovesWindowLines :
    Ascending (sfbShort config 44100) ∧ (sfbShort config 44100).getD 13 0 ≤ 192 ∧
      (sfbShort config 44100).getD 13 0 - (sfbShort config 44100).getD 12 0 = 56 ∧
      3 * ((sfbShort config 44100).getD 12 0 + 55) + 2 = 575 ∧ 3 * (sfbShort config 44100).getD 3 0 = 36 := by
  simp only [Ascending]
  decide +kernel

end Sys2Proof.Tests
end

section
/-! PROOFS. Reading bits of the stream, and the fetch of the frame at the cursor (R2, R181, R201). -/

-- One theorem after another: threads that wait for each other exhaust the memory limit with their stacks.
set_option Elab.async false

namespace Sys2Proof.Machine

/-! ## Reading bits of the stream (R181) -/

/-- A pull writes the bit reader and the count of free values. -/
theorem pullTo_eq (need : Nat) (s : State) :
    pullTo need s = { s with br := (pullTo need s).br, freeCtr := (pullTo need s).freeCtr } := by
  unfold pullTo
  split
  · rfl
  · dsimp only
    split <;> rfl

theorem bytesFor_le_iff {p n : Nat} : bytesFor p ≤ n ↔ p ≤ 8 * n := by unfold bytesFor; omega

/-- A cursor inside the bit address space needs no more bytes than it has. -/
theorem bytesFor_lt {p : Nat} (h : p < 2 ^ 64) : bytesFor p < 2 ^ 64 := by unfold bytesFor; omega

/-- The bytes that cover a bit address are pulled, unless the stream ends before it. -/
theorem pullTo_covers {p : Nat} {s : State} (hi : BrInv s) (hp : p < 2 ^ 64) :
    bytesFor p ≤ (pullTo (bytesFor p) s).br.pulled.toNat ↔ p ≤ 8 * s.src.bytes.length := by
  obtain ⟨hinv, -, h⟩ := pullTo_inv hi (bytesFor_lt hp)
  have hle := hinv.pulled
  rw [(pullTo_frame _ s).src] at hle
  rw [← bytesFor_le_iff]
  omega

/-- With n bits left `ReadBits(n)` returns them and moves the cursor past them. -/
theorem readBits_ok {n : Nat} {s : State} (hi : BrInv s) (hp : s.br.pos.toNat + n < 2 ^ 64)
    (hn : s.br.pos.toNat + n ≤ 8 * s.src.bytes.length) :
    ∃ t, readBits n s = .ok (bitsAt s.src.bytes s.br.pos.toNat n) t ∧ BrInv t ∧
      t.br.pos = s.br.pos + BitVec.ofNat 64 n ∧ t = { s with br := t.br, freeCtr := t.freeCtr } := by
  have hc := (pullTo_covers hi hp).mpr hn
  rw [readBits_eq, if_neg (Nat.not_lt.mpr hc)]
  refine ⟨_, rfl, brInv_withPos (pullTo_inv hi (bytesFor_lt hp)).1 (bytesFor_le_iff.mp hc), ?_, ?_⟩
  · simp [BitVec.ofNat_add]
  · rw [pullTo_eq]; rfl

/-- Without them it raises `StreamExhausted` with the cursor in place. -/
theorem readBits_exhausted {n : Nat} {s : State} (hi : BrInv s) (hp : s.br.pos.toNat + n < 2 ^ 64)
    (hn : 8 * s.src.bytes.length < s.br.pos.toNat + n) :
    readBits n s = .error .streamExhausted (pullTo (bytesFor (s.br.pos.toNat + n)) s) := by
  have hc := mt (pullTo_covers hi hp).mp (Nat.not_le.mpr hn)
  rw [readBits_eq, if_pos (Nat.not_le.mp hc)]

/-! ## The frame at the cursor (R2, R201) -/

theorem fetchHeader_of_ok {s t : State} {n : Nat} (h : readBits 32 s = .ok n t) :
    fetchHeader s = .ok (BitVec.ofNat 32 n) t := by
  simp only [fetchHeader, h]

theorem fetchHeader_of_error {s t : State} {e : Code} (h : readBits 32 s = .error e t) :
    fetchHeader s = .error e (clearHeader t) := by
  simp only [fetchHeader, h]

/-- Within the bit address space the fetch of a frame's header word drops the held header and reads 32 bits. -/
theorem fetchFrameWord_eq {s : State} (hp : s.br.pos.toNat + 32 < 2 ^ 64) :
    fetchFrameWord s = fetchHeader (s.withHdr { s.hdr with valid := false }) := by
  show (cursorCheck (s.br.pos.toNat + 32) >>= fun _ => _) s = _
  rw [cursorCheck, if_pos hp]
  rfl

/-- A requested frame is performed in the state without the request, after the boundary of `EQW`. -/
theorem step_frame {s : State} {rest : List HostOp} (h : s.cp.ops = .frame :: rest) :
    step s = stepFrame (dequeue rest (eqBoundary s)) := by
  have hops : (eqBoundary s).cp.ops = .frame :: rest := by rw [(eqw_boundary s).cp, h]
  simp only [step, hops, perform]

theorem stepFrame_of_fetched {s t : State} {w : HeaderWord} (h : fetchFrameWord (startCommand s) = .ok w t) :
    stepFrame s = exec (decode t.cfg.syncBits (.header w)) t := by
  simp only [stepFrame, h]

theorem stepFrame_of_error {s t : State} {e : Code} (h : fetchFrameWord (startCommand s) = .error e t) :
    stepFrame s = .next (endCommand e 0 t) := by
  simp only [stepFrame, h]

/-- The bit reader's invariant speaks of the bit reader and the source. -/
theorem brInv_congr {s t : State} (hb : t.br = s.br) (hs : t.src = s.src) (hi : BrInv s) : BrInv t := by
  refine ⟨?_, ?_, ?_⟩ <;> rw [hb]
  · exact hi.pos
  · rw [hs]; exact hi.pulled
  · rw [hs]; exact hi.eod

/-- Settles O5: the fetch is `ReadBits(32)` in the state of the request. -/
theorem stepRunsFrameAtCursor : Obligations.StepRunsFrameAtCursor := by
  unfold Obligations.StepRunsFrameAtCursor
  intro s rest hi hops hp
  have hw := eqw_boundary s
  generalize hd : dequeue rest (eqBoundary s) = d
  have hbr : d.br = s.br := by rw [← hd, ← hw.br]; rfl
  have hsrc : d.src = s.src := by rw [← hd, ← hw.src]; rfl
  have hhdr : d.hdr = s.hdr := by rw [← hd, ← hw.hdr]; rfl
  have hcfg : d.cfg = s.cfg := by rw [← hd, ← hw.cfg]; rfl
  rw [step_frame hops, hd, ← hbr, ← hsrc, ← hhdr, ← hcfg]
  rw [← hbr] at hp
  have hfetch := fetchFrameWord_eq (s := startCommand d) hp
  have hi' : BrInv ((startCommand d).withHdr { d.hdr with valid := false }) := brInv_congr hbr hsrc hi
  refine ⟨fun hn => ?_, fun hn => ?_⟩
  · obtain ⟨t, hr, hti, hpos, ht⟩ := readBits_ok hi' hp hn
    have hok := hfetch.trans (fetchHeader_of_ok hr)
    refine ⟨t, ?_, hpos, hti, ?_, ?_⟩
    · rw [stepFrame_of_fetched hok, ht]; rfl
    · rw [ht]; rfl
    · rw [ht]; rfl
  · have herr := hfetch.trans (fetchHeader_of_error (readBits_exhausted hi' hp hn))
    rw [stepFrame_of_error herr, pullTo_eq]
    exact ⟨_, rfl, ⟨rfl, rfl⟩, (pullTo_frame _ _).pos, rfl, rfl⟩

end Sys2Proof.Machine
end

section
/-! PROOFS. The rows of a header word: accepted ones are `DECODE_FRAME`, refused ones end with their code
(R133, R136). -/

-- One theorem after another: threads that wait for each other exhaust the memory limit with their stacks.
set_option Elab.async false

namespace Sys2Proof.Machine

/-! ## Rows of an accepted header (R201, R204 to R207) -/

/-- What the tests of R201 leave of an accepted header, and the layer code of its row. -/
theorem headerClass_accepted {sb : SyncBits} {h : HeaderFields}
    (hc : headerClass sb h ∈ [.layer1, .layer2, .layer3]) :
    h.versionId ≠ 1 ∧ h.bitrateIndex ≠ 15 ∧ h.rateIndex ≠ 3 ∧ h.bitrateIndex ≠ 0 ∧
      (headerClass sb h = .layer1 ∧ h.layerCode = 3 ∨ headerClass sb h = .layer2 ∧ h.layerCode = 2 ∨
        headerClass sb h = .layer3 ∧ h.layerCode = 1) := by
  have hlast (c : BitVec 2) (h0 : c ≠ 0) (h3 : c ≠ 3) (h2 : c ≠ 2) : c = 1 := by decide +revert
  unfold headerClass at hc ⊢
  split_ifs at hc ⊢ <;> simp_all

section
variable {sb : SyncBits} {h : HeaderFields}

theorem layerCode_of_layer1 (hc : headerClass sb h = .layer1) : h.layerCode = 3 := by
  obtain ⟨-, -, -, -, hl⟩ := headerClass_accepted (sb := sb) (h := h) (by simp [hc])
  simpa [hc] using hl

theorem layerCode_of_layer2 (hc : headerClass sb h = .layer2) : h.layerCode = 2 := by
  obtain ⟨-, -, -, -, hl⟩ := headerClass_accepted (sb := sb) (h := h) (by simp [hc])
  simpa [hc] using hl

theorem layerCode_of_layer3 (hc : headerClass sb h = .layer3) : h.layerCode = 1 := by
  obtain ⟨-, -, -, -, hl⟩ := headerClass_accepted (sb := sb) (h := h) (by simp [hc])
  simpa [hc] using hl

end

/-! ## Frame rows (R2, R133) -/

/-- A frame body run on its own header is `DECODE_FRAME` with that header accepted. -/
theorem runCommand_frameBody (h : HeaderFields) (s : State) :
    runCommand (frameBody h.layerCode h) s = runCommand decodeFrameBody (acceptHeader h (s.br.pos - 32) s) := rfl

section
variable {h : HeaderFields} {s : State}

theorem exec_frameL1 (hc : headerClass s.cfg.syncBits h = .layer1) :
    exec (.frameL1 h) s = exec .decodeFrame (acceptHeader h (s.br.pos - 32) s) := by
  show Host.Outcome.next (runCommand (frameBody 3 h) s) = .next (runCommand decodeFrameBody _)
  rw [← runCommand_frameBody, layerCode_of_layer1 hc]

theorem exec_frameL2 (hc : headerClass s.cfg.syncBits h = .layer2) :
    exec (.frameL2 h) s = exec .decodeFrame (acceptHeader h (s.br.pos - 32) s) := by
  show Host.Outcome.next (runCommand (frameBody 2 h) s) = .next (runCommand decodeFrameBody _)
  rw [← runCommand_frameBody, layerCode_of_layer2 hc]

theorem exec_frameL3 (hc : headerClass s.cfg.syncBits h = .layer3) :
    exec (.frameL3 h) s = exec .decodeFrame (acceptHeader h (s.br.pos - 32) s) := by
  show Host.Outcome.next (runCommand (frameBody 1 h) s) = .next (runCommand decodeFrameBody _)
  rw [← runCommand_frameBody, layerCode_of_layer3 hc]

end

theorem exec_decodeFrame (s : State) : exec .decodeFrame s = .next (runCommand decodeFrameBody s) := rfl

/-! ## Refused header rows (R136) -/

/-- A refused header row clears the header and moves the cursor from 32 bits after the start of the header word to 8 bits
after it (R201). -/
theorem runCommand_refuseFetched (e : Code) (s : State) :
    runCommand (refuseFetched e) s =
      endCommand e 0 ((clearHeader (startCommand s)).withBr { s.br with pos := s.br.pos - 24 }) := by
  have hpos : BitVec.ofNat 64 ((s.br.pos - 32).toNat + 8) = s.br.pos - 24 := by bv_omega
  rw [← hpos]
  rfl

/-- Settles O19: the frame rows by their layer code, the refused rows by their common end. -/
theorem headerRowsEnd : Obligations.HeaderRowsEnd := by
  unfold Obligations.HeaderRowsEnd
  refine ⟨fun h s row hrow hc => ?_, fun h s _ row hrow => ?_⟩
  · have hrow_exec : exec row.2 s = exec .decodeFrame (acceptHeader h (s.br.pos - 32) s) := by
      simp only [List.mem_cons, List.not_mem_nil, or_false] at hrow
      obtain rfl | rfl | rfl := hrow
      · exact exec_frameL1 hc
      · exact exec_frameL2 hc
      · exact exec_frameL3 hc
    rw [hrow_exec, exec_decodeFrame]
    exact ⟨_, rfl, rfl⟩
  · have hrow_exec : exec row.1 s = .next (runCommand (refuseFetched row.2) s) := by
      simp only [List.mem_cons, List.not_mem_nil, or_false] at hrow
      obtain rfl | rfl | rfl | rfl | rfl | rfl := hrow <;> rfl
    rw [hrow_exec, runCommand_refuseFetched]
    exact ⟨_, rfl, ⟨rfl, rfl⟩, rfl, rfl, rfl, rfl⟩

end Sys2Proof.Machine
end

section
/-! PROOFS. Requantisation: where a line lies in a table that rises, and what becomes of it (R391 to R394). -/

-- One theorem after another: threads that wait for each other exhaust the memory limit with their stacks.
set_option Elab.async false

namespace Sys2Proof.Machine

/-! ## Requantisation (R391 to R394) -/

/-- Boundaries that rise still rise when they are scaled. -/
theorem ascending_scaled {b : List Nat} (hb : Ascending b) {c : Nat} (hc : 0 < c) : Ascending (b.map (c * ·)) :=
  List.Pairwise.map _ (fun _ _ h => Nat.mul_lt_mul_of_pos_left h hc) hb

/-- With a table that rises the place of a line of a long part is the band that holds it (R343). -/
theorem longPlace_of_inLong {c : Config} {rate sfb k : Nat} (hb : Ascending (sfbLong c rate))
    (h : InLong c rate sfb k) : longPlace c rate k = some sfb := by
  obtain ⟨hs, hlo, hhi⟩ := h
  exact bandOf_ascending hb (by simp [sfbLong]) (Nat.zero_le _) hs hlo hhi

/-- With a table that rises the place of a line of a short part is the band and the window that hold it (R391). -/
theorem shortPlace_of_inShort {c : Config} {rate first sfb w k : Nat} (hb : Ascending (sfbShort c rate))
    (hf : first ≤ sfb) (h : InShort c rate sfb w k) : shortPlace c rate first k = some (sfb, w) := by
  obtain ⟨hs, hw, hlo, hhi⟩ := h
  have hscaled (i : Nat) : ((sfbShort c rate).map (3 * ·)).getD i 0 = 3 * (sfbShort c rate).getD i 0 :=
    List.getD_map _ 0 (3 * ·)
  have hwindows := Nat.mul_le_mul_right ((sfbShort c rate).getD (sfb + 1) 0 - (sfbShort c rate).getD sfb 0)
    (show w + 1 ≤ 3 from hw)
  have hband : bandOf ((sfbShort c rate).map (3 * ·)) first 13 k = some sfb :=
    bandOf_ascending (ascending_scaled hb (by decide)) (by simp [sfbShort]) hf hs (by rw [hscaled]; omega)
      (by rw [hscaled]; omega)
  have hwindow : (k - 3 * (sfbShort c rate).getD sfb 0) /
      ((sfbShort c rate).getD (sfb + 1) 0 - (sfbShort c rate).getD sfb 0) = w :=
    Nat.div_eq_of_lt_le (by omega) (by omega)
  simp only [shortPlace, hband, Option.map_some, hwindow]

/-- The value of a line is the power law of R392. -/
theorem requantized_eq (num : NumSystem) (v e4 : Int) : requantized num v e4 = powerLaw num v e4 := rfl

/-- A zero line stays +0.0. -/
@[simp] theorem powerLaw_zero (num : NumSystem) (e4 : Int) : powerLaw num 0 e4 = Machine.Num.zero := rfl

/-- The exponent of a line in a long part (R394). -/
theorem exponent4_long {c : Config} {rate sfb k : Nat} {g : Granule} (f : ScaleFactors) (free : Int)
    (hk : (blockKind g).shortLine k = false) (hp : longPlace c rate k = some sfb) :
    exponent4 c rate g f free k = (g.globalGain.toNat : Int) - 210 -
      (if g.scalefacScale = 0 then 2 else 4 : Nat) *
        ((rd f.l sfb).toNat + g.preflag.toNat * pretab.getD sfb 0 : Nat) := by
  simp [exponent4, hk, hp]

/-- The exponent of a line in a short part (R393). -/
theorem exponent4_short {c : Config} {rate sfb w k : Nat} {g : Granule} (f : ScaleFactors) (free : Int)
    (hk : (blockKind g).shortLine k = true) (hp : shortPlace c rate 0 k = some (sfb, w)) :
    exponent4 c rate g f free k = (g.globalGain.toNat : Int) - 210 - 8 * (rd g.subblockGain w).toNat -
      (if g.scalefacScale = 0 then 2 else 4 : Nat) * (rd (rd f.s w) sfb).toNat := by
  simp [exponent4, hk, hp]

theorem shortLine_eq_false {kind : BlockKind} {k : Nat}
    (h : (kind ≠ .short ∧ kind ≠ .mixed) ∨ (kind = .mixed ∧ k < 36)) : kind.shortLine k = false := by
  obtain ⟨hs, hm⟩ | ⟨rfl, hk⟩ := h
  · cases kind <;> simp_all [BlockKind.shortLine]
  · exact decide_eq_false (by omega)

theorem shortLine_eq_true {kind : BlockKind} {k : Nat} (h : kind = .short ∨ (kind = .mixed ∧ 36 ≤ k)) :
    kind.shortLine k = true := by
  obtain rfl | ⟨rfl, hk⟩ := h
  · rfl
  · exact decide_eq_true hk

/-- `Requantize` writes the lines of its channel and nothing else. -/
theorem requantize_frame (gr ch : Nat) (s : State) :
    requantize gr ch s = { s with tr := { s.tr with xr := (requantize gr ch s).tr.xr } } := rfl

theorem requantize_other {gr ch c : Nat} (s : State) (h : c ≠ ch) :
    rd (requantize gr ch s).tr.xr c = rd s.tr.xr c := rd_wr_other _ _ _ _ h.symm

/-- A line after `Requantize`: the power law with the exponent of the line. -/
theorem requantize_line {gr ch k : Nat} (s : State) (hch : ch < 2) (hk : k < 576) :
    rd (rd (requantize gr ch s).tr.xr ch) k =
      powerLaw s.cfg.num (rd (rd s.tr.is ch) k).toInt
        (exponent4 s.cfg s.frm.rate.toNat (s.granule gr ch) (rd s.tr.scf ch)
          (Config.freeExponent s.freeCtr (1152 * gr + 576 * ch + k)) k) := by
  simp [requantize, hch, hk, requantized_eq]

/-- Settles O54: the place of a line in a table that rises gives its exponent, and every line is its power law. -/
theorem requantizeAppliesThePowerLaw : Obligations.RequantizeAppliesThePowerLaw := by
  unfold Obligations.RequantizeAppliesThePowerLaw
  rintro gr ch s t g rate mult - hch rfl rfl rfl hlong hshort rfl
  refine ⟨requantize_frame gr ch s, fun c _ h => requantize_other s h, fun k hk hz => ?_,
    fun sfb k hk hin hkind => ?_, fun sfb w k hk hin hkind => ?_⟩
  · rw [requantize_line s hch hk, hz]
    exact powerLaw_zero _ _
  · rw [requantize_line s hch hk,
      exponent4_long _ _ (shortLine_eq_false hkind) (longPlace_of_inLong hlong hin)]
    rfl
  · rw [requantize_line s hch hk,
      exponent4_short _ _ (shortLine_eq_true hkind) (shortPlace_of_inShort hshort (Nat.zero_le _) hin)]

end Sys2Proof.Machine
end

section
/-! PROOFS. A Layer III frame that passes the checks of `DECODE_FRAME` has room for its side information, so that
nothing raises an error (R321, R322, R441). -/

-- One theorem after another: threads that wait for each other exhaust the memory limit with their stacks.
set_option Elab.async false

namespace Sys2Proof.Machine

open Act

/-! ## Bodies that fit the frame buffer (R184) -/

/-- n bits are left in the frame buffer, and its size is one that `FB.pos` can count. -/
def FbRoom (n : Nat) (s : State) : Prop :=
  s.fb.pos.toNat + n ≤ 8 * s.fb.bytes.length ∧ 8 * s.fb.bytes.length < 2 ^ 32

theorem FbRoom.mono {n m : Nat} {s : State} (h : FbRoom n s) (hm : m ≤ n) : FbRoom m s :=
  ⟨by have := h.1; omega, h.2⟩

/-- With n bits left the body ends with a value, and takes no more than them. -/
def Fits {α : Type} (n : Nat) (a : Act α) : Prop :=
  ∀ m s, FbRoom (n + m) s → Ends a (fun _ t => FbRoom m t) (fun _ _ => False) s

section
variable {α β : Type} {n m N : Nat}

theorem fits_pure (v : α) : Fits n (pure v) := fun _ _ h => (ends_pure v).mpr (h.mono (by omega))

theorem fits_modify {f : State → State} (hf : ∀ s, (f s).fb = s.fb) : Fits n (modify f : Act PUnit) := by
  intro m s h
  rw [ends_modify, FbRoom, hf]
  exact h.mono (by omega)

theorem fits_bind {a : Act α} {k : α → Act β} (ha : Fits n a) (hk : ∀ v, Fits m (k v)) (hN : n + m ≤ N) :
    Fits N (a >>= k) := fun r s h =>
  (ends_bind a k).mpr <| (ha (m + r) s (h.mono (by omega))).mono (fun v t ht => hk v r t ht) fun _ _ he => he

theorem fits_fbBits (n : Nat) : Fits n (fbBits n) := by
  intro m s ⟨hroom, hsize⟩
  rw [fbBits_ends, if_neg (by omega)]
  refine ⟨?_, hsize⟩
  simp only [State.withFb_fields, BitVec.toNat_ofNat]
  rw [Nat.mod_eq_of_lt (by omega)]
  omega

/-- A field of n bits, and what follows it. -/
theorem fits_read {k : Nat → Act β} (hn : n ≤ N) (hk : ∀ v, Fits (N - n) (k v)) : Fits N (fbBits n >>= k) :=
  fits_bind (fits_fbBits n) hk (by omega)

/-- A value that goes into a register outside the frame buffer. -/
theorem fits_store {a : Act α} {f : α → State → State} (ha : Fits n a) (hf : ∀ v s, (f v s).fb = s.fb) :
    Fits n (a >>= fun v => (modify (f v) : Act PUnit)) :=
  fits_bind ha (m := 0) (fun v => fits_modify (hf v)) (Nat.le_refl _)

theorem fits_ite {c : Prop} [Decidable c] {a b : Act α} (ha : Fits n a) (hb : Fits n b) :
    Fits n (if c then a else b) := by
  split <;> assumption

theorem fits_forEach {f : Nat → Act Unit} (h : ∀ i, Fits n (f i)) (k : Nat) : Fits (k * n) (forEach k f) := by
  intro m s hs
  have key := ends_forEach (P := fun i t => FbRoom ((k - i) * n + m) t) (E := fun _ _ => False) (f := f) (n := k)
    (s := s) hs fun i hi t ht => by
      have hsplit : (k - i) * n = n + (k - (i + 1)) * n := by
        rw [show k - i = k - (i + 1) + 1 by omega, Nat.succ_mul, Nat.add_comm]
      rw [hsplit, Nat.add_assoc] at ht
      exact h i _ t ht
  simpa using key

end

/-! ## The bits of the side information (R140 to R142) -/

theorem fits_readSwitched (g : Granule) : Fits 22 (readSwitched g) := by
  unfold readSwitched
  iterate 7 refine fits_read (by decide) fun _ => ?_
  exact fits_pure _

theorem fits_readUnswitched (g : Granule) : Fits 22 (readUnswitched g) := by
  unfold readUnswitched
  iterate 5 refine fits_read (by decide) fun _ => ?_
  exact fits_pure _

theorem fits_readPreflag (v1 : Bool) : Fits (if v1 then 1 else 0) (readPreflag v1) := by
  cases v1
  · exact fits_pure _
  · exact fits_fbBits 1

/-- The bits of a granule record (R142). -/
def granuleBits (v1 : Bool) : Nat := 54 + (if v1 then 4 else 9) + (if v1 then 1 else 0)

theorem fits_readGranule (v1 : Bool) : Fits (granuleBits v1) (readGranule v1) := by
  have hpre := fits_readPreflag v1
  unfold granuleBits readGranule
  generalize (if v1 then 4 else 9) = c
  generalize (if v1 then 1 else 0) = p at hpre
  iterate 5 refine fits_read (by omega) fun _ => ?_
  refine fits_bind (fits_ite (fits_readSwitched _) (fits_readUnswitched _)) (m := p + 2) (fun _ => ?_) (by omega)
  refine fits_bind hpre (m := 2) (fun _ => ?_) (Nat.le_refl _)
  iterate 2 refine fits_read (by decide) fun _ => ?_
  exact fits_pure _

theorem fits_readScfsi (v1 : Bool) (nch : Nat) : Fits (if v1 then nch * 4 else 0) (readScfsi v1 nch) := by
  cases v1
  · exact fits_pure _
  · refine fits_forEach (fun _ => ?_) nch
    refine fits_forEach (n := 1) (fun _ => ?_) 4
    exact fits_store (fits_fbBits 1) fun _ _ => rfl

theorem fits_readGranules (v1 : Bool) (ngr nch : Nat) :
    Fits (ngr * (nch * granuleBits v1)) (readGranules v1 ngr nch) := by
  refine fits_forEach (fun _ => ?_) ngr
  refine fits_forEach (fun _ => ?_) nch
  exact fits_store (fits_readGranule v1) fun _ _ => rfl

/-- The bits of the side information of a frame (R140, R141). -/
def sideInfoBits (v1 : Bool) (ngr nch : Nat) : Nat :=
  (if v1 then 9 else 8) + privateBits v1 nch + (if v1 then nch * 4 else 0) + ngr * (nch * granuleBits v1)

/-- `ParseSideInfo` of the frame in `FB`. -/
theorem parseSideInfo_fits {s : State} {m : Nat}
    (h : FbRoom (sideInfoBits (decide (s.frm.version = 1)) s.ngr s.nch + m) s) :
    Ends parseSideInfo (fun _ t => FbRoom m t) (fun _ _ => False) s := by
  unfold parseSideInfo
  rw [ends_bind, ends_get]
  generalize decide (s.frm.version = 1) = v1 at h
  refine (?_ : Fits (sideInfoBits v1 s.ngr s.nch) _) m s h
  unfold sideInfoBits
  refine fits_read (by omega) fun _ => ?_
  refine fits_bind (n := 0) (fits_modify fun _ => rfl) (fun _ => ?_) (Nat.le_of_eq (Nat.zero_add _))
  refine fits_read (by omega) fun _ => ?_
  exact fits_bind (fits_readScfsi v1 s.nch) (fun _ => fits_readGranules v1 s.ngr s.nch) (by omega)

theorem fits_skipCheckWord : Fits 16 skipCheckWord := by
  intro m s h
  unfold skipCheckWord
  rw [ends_bind, ends_get]
  exact fits_ite (fits_read (Nat.le_refl _) fun _ => fits_pure _) (fits_pure _) m s h

/-! ## Layer III of a body with room -/

/-- What a body keeps besides holds where it ends. -/
theorem Act.Ends.and_keeps {α : Type} {a : Act α} {Q : α → State → Prop} {E : Code → State → Prop}
    {R : State → State → Prop} {s : State} (h : Ends a Q E s) (hk : Keeps R a) :
    Ends a (fun v t => Q v t ∧ R s t) (fun e t => E e t ∧ R s t) s := by
  have hR := hk s
  unfold Ends at h hR ⊢
  cases ha : a s <;> simp only [ha] at h hR ⊢ <;> exact ⟨h, hR⟩

/-- With room for a check word and the side information `L3Decode` raises nothing: its granules follow a parse. -/
theorem decode3_ends {s : State}
    (h : FbRoom (16 + sideInfoBits (decide (s.frm.version = 1)) s.ngr s.nch) s) :
    Ends decode3 (fun _ t => ∃ u, ParseFrame s u ∧ t = decodeMain3 u) (fun _ _ => False) s := by
  unfold decode3
  rw [ends_bind]
  refine ((fits_skipCheckWord _ s h).and_keeps skipCheckWord_parses).mono (fun _ t ht => ?_) fun _ _ he => he.1
  obtain ⟨hroom, hskip, -⟩ := ht
  rw [ends_bind]
  have hside : FbRoom (sideInfoBits (decide (t.frm.version = 1)) t.ngr t.nch + 0) t := by
    simpa only [State.ngr, State.nch, hskip.frm, Nat.add_zero] using hroom
  refine ((parseSideInfo_fits hside).and_keeps parseSideInfo_parses).mono (fun _ u hu => ?_) fun _ _ he => he.1
  exact (ends_modify _).mpr ⟨u, hskip.trans hu.2.1, rfl⟩

/-! ## The size of a Layer III frame (R206, R207, R211, R212) -/

/-- Every bitrate of an accepted index, in kbit/s (R206). -/
theorem kbps_layer3 {i : BitVec 4} (h0 : i ≠ 0) (h15 : i ≠ 15) :
    (32 ≤ kbpsV1L3.getD i.toNat 0 ∧ kbpsV1L3.getD i.toNat 0 ≤ 320) ∧
      8 ≤ kbpsLsfL23.getD i.toNat 0 ∧ kbpsLsfL23.getD i.toNat 0 ≤ 160 := by decide +revert

/-- Every sample rate of an accepted index: MPEG-1 rates end at 48000 Hz, the others at 24000 Hz (R207). -/
theorem rate_bounds {i : BitVec 2} (h3 : i ≠ 3) (v : Nat) :
    8000 ≤ (ratesHz v).getD i.toNat 0 ∧ (ratesHz v).getD i.toNat 0 ≤ if v = 1 then 48000 else 24000 := by
  unfold ratesHz
  split_ifs
  all_goals decide +revert

theorem headerLayer_of_code1 {h : HeaderFields} (hl : h.layerCode = 1) : headerLayer h = 3 := by
  simp [headerLayer, hl]

/-- The shortest Layer III frames have 96 and 24 bytes; all lengths fit `FRM.len` (R212, R213). -/
theorem headerLen_layer3 {sb : SyncBits} {h : HeaderFields} (halve : Bool) (hc : headerClass sb h = .layer3) :
    (if headerVersion h = 1 then 96 else 24) ≤ headerLen halve h ∧ headerLen halve h < 2 ^ 16 := by
  obtain ⟨-, h15, h3, h0, -⟩ := headerClass_accepted (sb := sb) (h := h) (by simp [hc])
  have hl := headerLayer_of_code1 (layerCode_of_layer3 hc)
  have hpad : h.padding.toNat < 2 := h.padding.isLt
  obtain ⟨⟨hv1, hv1'⟩, hlsf, hlsf'⟩ := kbps_layer3 h0 h15
  obtain ⟨hr, hr'⟩ := rate_bounds h3 (headerVersion h)
  simp only [headerLen, lengthConstant, headerBitrate, headerRate, bitrateColumn, hl]
  generalize (ratesHz (headerVersion h)).getD h.rateIndex.toNat 0 = r at hr hr' ⊢
  by_cases hv : headerVersion h = 1
  · simp only [hv, if_true, ne_eq, not_true_eq_false, false_and, if_false, OfNat.ofNat_ne_one,
      Nat.reduceEqDiff] at hr' ⊢
    generalize kbpsV1L3.getD h.bitrateIndex.toNat 0 = b at hv1 hv1' ⊢
    have hlo : 96 ≤ 144 * (1000 * b) / r := (Nat.le_div_iff_mul_le (by omega)).mpr (by omega)
    have hhi : 144 * (1000 * b) / r < 2 ^ 15 := (Nat.div_lt_iff_lt_mul (by omega)).mpr (by omega)
    omega
  · simp only [hv, if_false, ne_eq, not_false_eq_true, true_and, true_or, if_true, OfNat.ofNat_ne_one] at hr' ⊢
    generalize kbpsLsfL23.getD h.bitrateIndex.toNat 0 = b at hlsf hlsf' ⊢
    have hlo : 24 ≤ 72 * (1000 * b) / r := (Nat.le_div_iff_mul_le (by omega)).mpr (by omega)
    have hhi : 72 * (1000 * b) / r < 2 ^ 15 := (Nat.div_lt_iff_lt_mul (by omega)).mpr (by omega)
    omega

/-- The side information takes what `FRM.side_bytes` says (R140, R141, R211). -/
theorem sideInfoBits_layer3 {h : HeaderFields} (hl : headerLayer h = 3) :
    sideInfoBits (decide (headerVersion h = 1)) (if headerVersion h = 1 then 2 else 1) (headerChannels h) =
      8 * headerSideBytes h := by
  have hch : headerChannels h = 1 ∨ headerChannels h = 2 := by unfold headerChannels; split <;> simp
  unfold headerSideBytes
  by_cases hv : headerVersion h = 1 <;> obtain hn | hn := hch <;> simp [hl, hv, hn] <;> decide

/-! ## DECODE_FRAME past its checks (R441) -/

theorem openSession_eq (s : State) : openSession s = s.withSes (openSession s).ses := by
  unfold openSession
  split <;> rfl

theorem makeSlot_eq (layer : Nat) (s : State) :
    makeSlot layer s =
      { s with res := (makeSlot layer s).res, ov := (makeSlot layer s).ov, made := (makeSlot layer s).made } := by
  unfold makeSlot
  split
  · rfl
  · dsimp only
    split <;> rfl

/-- The body comes into `FB`; beside it the bit reader and the count of free values change. -/
theorem takeBody_eq (s : State) :
    takeBody s = { s with
      br := (takeBody s).br, fb := { bytes := s.bodyBytes, pos := 0 }, freeCtr := (takeBody s).freeCtr } := by
  unfold takeBody
  rw [pullTo_eq]
  rfl

/-- The state in which the layer decoder starts (R441): what its checks and preparations can have changed. -/
theorem frameStart_eq (s : State) :
    frameStart s = { s with
      br := (frameStart s).br, hdr := { s.hdr with valid := false }, ses := (frameStart s).ses,
      st := (startCommand s).st, fb := { bytes := s.bodyBytes, pos := 0 }, res := (frameStart s).res,
      ov := (frameStart s).ov, made := (frameStart s).made, sinks := (frameStart s).sinks,
      freeCtr := (frameStart s).freeCtr } := by
  unfold frameStart sinkClear
  rw [onSink_fields, makeSlot_eq, takeBody_eq, openSession_eq]
  rfl

@[simp] theorem length_bodyBytes (s : State) : s.bodyBytes.length = s.bodyLen := by simp [State.bodyBytes]

theorem checkSession_ends {Q : Unit → State → Prop} {E : Code → State → Prop} (s : State) :
    Ends checkSession Q E s ↔ if s.sessionAgrees then Q () (openSession s) else E .sessionMismatch s := by
  unfold checkSession
  simp only [ends_bind, ends_get, ends_ite, ends_modify, ends_throw]

/-- `FetchBody` with the body in the stream (R445). -/
theorem fetchBody_ends {Q : Unit → State → Prop} {E : Code → State → Prop} {s : State} (hi : BrInv s)
    (hin : s.bodyEnd < 2 ^ 64) (hbody : s.bodyEnd ≤ 8 * s.src.bytes.length) :
    Ends fetchBody Q E s ↔ Q () (takeBody s) := by
  have hc := (pullTo_covers hi hin).mpr hbody
  unfold fetchBody Ends
  simp only [if_neg (Nat.not_lt.mpr hc)]

theorem decodeBody_ends {Q : Unit → State → Prop} {E : Code → State → Prop} (layer : Nat) (s : State) :
    Ends (decodeBody layer) Q E s ↔
      Ends (decodeLayer layer) (fun _ t => Q () (forgetFb t)) (fun e t => E e (forgetFb t)) s := by
  unfold decodeBody Ends
  cases h : decodeLayer layer s <;> simp only [h]

/-- `DECODE_FRAME` past its checks ends as the layer decoder ends on the body. -/
theorem decodeFrameBody_ends {Q : BitVec 32 → State → Prop} {E : Code → State → Prop} {s : State} (hi : BrInv s)
    (hr : FrameReady s) :
    Ends decodeFrameBody Q E (startCommand s) ↔
      Ends (decodeLayer s.frm.layer.toNat) (fun _ t => Q (t.frm.spf.setWidth 32) (forgetFb t))
        (fun e t => E e (forgetFb t)) (frameStart s) := by
  have hheld : (startCommand s).headerHeld = true := by
    show (s.hdr.valid && s.br.pos == s.hdr.start + 32) = true
    rw [hr.valid, hr.cursor]; simp
  have hlayer : s.frm.layer.toNat ≠ 0 := fun h => hr.layer (BitVec.eq_of_toNat_eq h)
  have hopen := openSession_eq ((startCommand s).withHdr { s.hdr with valid := false })
  have hfetch : BrInv (openSession ((startCommand s).withHdr { s.hdr with valid := false })) := by
    rw [hopen]; exact brInv_congr (s := s) rfl rfl hi
  unfold decodeFrameBody decodeHeld
  simp only [ends_bind, ends_get, ends_set, ends_ite, hheld, if_true, cursorCheck_ends]
  rw [if_pos (show (startCommand s).bodyEnd < 2 ^ 64 from hr.inside),
    if_neg (show ¬(startCommand s).frm.layer.toNat = 0 from hlayer), checkSession_ends,
    if_pos (show ((startCommand s).withHdr _).sessionAgrees = true from hr.session)]
  refine (fetchBody_ends hfetch (by rw [hopen]; exact hr.inside) (by rw [hopen]; exact hr.body)).trans ?_
  simp only [ends_modify, decodeBody_ends, ends_pure]
  rfl

/-! ## The frame of an accepted Layer III header -/

theorem headerClass_of_layer3 {sb : SyncBits} {h : HeaderFields} {halve vbr : Bool}
    (hc : headerClass sb h ∈ [.layer1, .layer2, .layer3]) (hl : (headerFrm halve h vbr).layer = 3) :
    headerClass sb h = .layer3 := by
  obtain ⟨-, -, -, -, ⟨-, hcode⟩ | ⟨-, hcode⟩ | ⟨h3, -⟩⟩ := headerClass_accepted hc
  · simp [headerFrm, headerLayer, hcode] at hl
  · simp [headerFrm, headerLayer, hcode] at hl
  · exact h3

theorem headerFrm_version (halve : Bool) (h : HeaderFields) (vbr : Bool) :
    (headerFrm halve h vbr).version = 1 ↔ headerVersion h = 1 := by
  have hv : headerVersion h < 4 := by unfold headerVersion; split_ifs <;> decide
  simp only [headerFrm]
  generalize headerVersion h = v at hv
  decide +revert

theorem headerFrm_channels (halve : Bool) (h : HeaderFields) (vbr : Bool) :
    (headerFrm halve h vbr).channels.toNat = headerChannels h := by
  simp only [headerFrm, headerChannels]
  split <;> rfl

/-- The body of a Layer III frame holds a check word and the side information, in every bitrate and rate. -/
theorem headerFrm_room {sb : SyncBits} {h : HeaderFields} (halve vbr : Bool) (hc : headerClass sb h = .layer3) :
    16 + sideInfoBits (decide ((headerFrm halve h vbr).version = 1))
        (if (headerFrm halve h vbr).version = 1 then 2 else 1) (headerFrm halve h vbr).channels.toNat ≤
      8 * ((headerFrm halve h vbr).len.toNat - 4) := by
  obtain ⟨hlo, hhi⟩ := headerLen_layer3 halve hc
  have hside : headerSideBytes h ≤ if headerVersion h = 1 then 32 else 17 := by
    unfold headerSideBytes; split_ifs <;> omega
  have hlen : (headerFrm halve h vbr).len.toNat = headerLen halve h := Nat.mod_eq_of_lt hhi
  simp only [headerFrm_version, headerFrm_channels, hlen,
    sideInfoBits_layer3 (headerLayer_of_code1 (layerCode_of_layer3 hc))]
  split_ifs at hlo hside <;> omega

/-- So the layer decoder starts with room for them (R322). -/
theorem frameStart_room {s : State} (hh : HeldInv s) (hv : s.hdr.valid = true) (hl : s.frm.layer = 3) :
    FbRoom (16 + sideInfoBits (decide ((frameStart s).frm.version = 1)) (frameStart s).ngr (frameStart s).nch)
      (frameStart s) := by
  obtain ⟨hc, hfrm⟩ := hh hv
  rw [hfrm] at hl
  have hroom := headerFrm_room s.cfg.lsfHalveL2 s.frm.vbr (headerClass_of_layer3 hc hl)
  rw [← hfrm] at hroom
  have hlen : s.frm.len.toNat < 2 ^ 16 := s.frm.len.isLt
  rw [frameStart_eq]
  refine ⟨?_, ?_⟩
  · simpa [State.ngr, State.nch, State.bodyLen] using hroom
  · simp only [length_bodyBytes, State.bodyLen]
    omega

/-- A Layer III frame that passes the checks ends with `OK`, and with a warning or none. -/
theorem layer3Frame_ends {s : State} (hi : BrInv s) (hh : HeldInv s) (hst : StInv s) (hr : FrameReady s)
    (hl : s.frm.layer = 3) :
    ∃ t, exec .decodeFrame s = .next t ∧ t.st.code = 0 ∧ t.st.value = s.frm.spf.setWidth 32 ∧
      t.st.warn ∈ [0, Code.huffmanTableError.toByte, Code.reservoirUnderrun.toByte] ∧
      t.hdr = { s.hdr with valid := false } ∧ t.frm = s.frm := by
  have hstart := frameStart_eq s
  have hstart_st : StInv (frameStart s) := by
    rw [hstart]; exact ⟨hst.code, by simp [startCommand], by simp [startCommand]⟩
  have hends : Ends decodeFrameBody
      (fun v t => v = s.frm.spf.setWidth 32 ∧ StInv t ∧ t.hdr = { s.hdr with valid := false } ∧ t.frm = s.frm)
      (fun _ _ => False) (startCommand s) := by
    rw [decodeFrameBody_ends hi hr, hl]
    refine (decode3_ends (frameStart_room hh hr.valid hl)).mono (fun _ t ht => ?_) fun _ _ => id
    obtain ⟨u, hparse, rfl⟩ := ht
    have hmain := granular_decodeMain3 u
    have hfrm : (decodeMain3 u).frm = s.frm := by rw [hmain.frame.frm, hparse.frm, hstart]
    have hhdr : (decodeMain3 u).hdr = { s.hdr with valid := false } := by rw [hmain.frame.hdr, hparse.hdr, hstart]
    have hst' : StInv (decodeMain3 u) := hmain.synth.2.2 (stInv_of_eq hparse.st hstart_st)
    exact ⟨by rw [hfrm], stInv_of_eq (s := decodeMain3 u) rfl hst', hhdr, hfrm⟩
  obtain ⟨v, t, ⟨rfl, ht, hhdr, hfrm⟩, hrun⟩ | ⟨_, _, hfalse, -⟩ := runCommand_of_ends hends
  · rw [exec_decodeFrame, hrun]
    exact ⟨_, rfl, rfl, rfl, ht.first, hhdr, hfrm⟩
  · exact hfalse.elim

/-! ## A header just accepted -/

/-- An accepted header is a held one, and `FRM` is what it determines. -/
theorem heldInv_acceptHeader {h : HeaderFields} {p : BitVec 64} {s : State}
    (hc : headerClass s.cfg.syncBits h ∈ [.layer1, .layer2, .layer3]) : HeldInv (acceptHeader h p s) := by
  intro _
  have hfields : (acceptHeader h p s).hdr.fields = h := split_join h
  rw [hfields]
  exact ⟨hc, rfl⟩

theorem headerFrm_spf (halve : Bool) (h : HeaderFields) (vbr : Bool) :
    (headerFrm halve h vbr).spf.setWidth 32 = BitVec.ofNat 32 (headerSpf h) := by
  simp only [headerFrm, headerSpf]
  split_ifs <;> rfl

/-- Settles O24: `DECODE_FRAME` has room for the side information, and the row is `DECODE_FRAME` with its header. -/
theorem layerThreeFramesEndOk : Obligations.LayerThreeFramesEndOk := by
  unfold Obligations.LayerThreeFramesEndOk
  refine ⟨fun s hs hr hl => ?_, fun h s hs _ hc hr => ?_⟩
  · obtain ⟨t, hexec, hcode, hvalue, hwarn, -⟩ := layer3Frame_ends hs.br hs.held hs.st hr hl
    exact ⟨t, hexec, hcode, hvalue, hwarn⟩
  · have hlayer : (acceptHeader h (s.br.pos - 32) s).frm.layer = 3 := by
      show BitVec.ofNat 2 (headerLayer h) = 3
      rw [headerLayer_of_code1 (layerCode_of_layer3 hc)]
      rfl
    have hbr : BrInv (acceptHeader h (s.br.pos - 32) s) := brInv_congr (s := s) rfl rfl hs.br
    have hst : StInv (acceptHeader h (s.br.pos - 32) s) := stInv_of_eq (s := s) rfl hs.st
    obtain ⟨t, hexec, hcode, hvalue, -, hhdr, hfrm⟩ :=
      layer3Frame_ends hbr (heldInv_acceptHeader (by simp [hc])) hst hr hlayer
    refine ⟨t, ?_, hcode, ?_, hhdr, ?_⟩
    · rw [exec_frameL3 hc, hexec]
    · rw [hvalue]; exact headerFrm_spf ..
    · rw [hfrm]; rfl

end Sys2Proof.Machine
end

section
/-! PROOFS. What a command body can raise: 6 and 7 of R471 are warnings, so no parse ends with them. -/

-- One theorem after another: threads that wait for each other exhaust the memory limit with their stacks.
set_option Elab.async false

namespace Sys2Proof.Machine

open Act

/-! ## Error codes (R471) -/

/-- The codes that a command can raise: `OK` is no error, and 6 and 7 are warnings. -/
def Code.isError : Code → Bool
  | .ok | .huffmanTableError | .reservoirUnderrun => false
  | .streamExhausted | .invalidSync | .reservedValue | .freeFormatUnsupported | .unsupportedLayer | .bandOutOfRange
  | .sessionMismatch | .illegalCommand => true

theorem Code.toByte_ne_zero {e : Code} (h : e.isError = true) : e.toByte ≠ 0 := by
  revert h
  cases e <;> decide

theorem Code.toByte_legal {e : Code} (h : e = .ok ∨ e.isError = true) :
    e.toByte ∈ [0, 1, 2, 3, 4, 5, 8, 9, 10].map (BitVec.ofNat 8) :=
  code_legal e (by rintro rfl; simp [isError] at h) (by rintro rfl; simp [isError] at h)

/-- The body raises error codes only. -/
def Raises {α : Type} (a : Act α) : Prop := ∀ s, Ends a (fun _ _ => True) (fun e _ => e.isError = true) s

section
variable {α β : Type}

@[simp] theorem raises_pure (v : α) : Raises (pure v) := fun _ => (ends_pure v).mpr trivial
@[simp] theorem raises_get : Raises (get : Act State) := fun _ => ends_get.mpr trivial
@[simp] theorem raises_modify (f : State → State) : Raises (modify f : Act PUnit) := fun _ => (ends_modify f).mpr trivial

theorem raises_throw {e : Code} (h : e.isError = true) : Raises (throw e : Act α) := fun _ =>
  (ends_throw e).mpr h

@[simp] theorem raises_bind {a : Act α} {k : α → Act β} (ha : Raises a) (hk : ∀ v, Raises (k v)) : Raises (a >>= k) :=
  fun s => (ends_bind a k).mpr ((ha s).mono (fun v t _ => hk v t) fun _ _ he => he)

@[simp] theorem raises_map {f : α → β} {a : Act α} (ha : Raises a) : Raises (f <$> a) := fun s =>
  (ends_map f a).mpr (ha s)

@[simp] theorem raises_ite {c : Prop} [Decidable c] {a b : Act α} (ha : Raises a) (hb : Raises b) :
    Raises (if c then a else b) := by
  split <;> assumption

@[simp] theorem raises_forEach {f : Nat → Act Unit} (h : ∀ i, Raises (f i)) (n : Nat) : Raises (forEach n f) := fun _ =>
  (ends_forEach (P := fun _ _ => True) trivial fun i _ t _ => h i t).mono (fun _ _ _ => trivial) fun _ _ he => he

end

@[simp] theorem raises_fbBits (n : Nat) : Raises (fbBits n) := fun s => by
  rw [fbBits_ends]
  split
  · rfl
  · trivial

/-- A test of the bit budget raises `StreamExhausted` (R274, R299). -/
theorem raises_budget {a : Act Unit} {n : State → Nat} (h : ∀ s, a s = fbBudget (n s) s) : Raises a := fun s => by
  rw [ends_congr (h s), fbBudget_ends]
  split
  · rfl
  · trivial

/-! ## Layer I and II (R271, R291) -/

@[simp] theorem raises_skipCheckWord : Raises skipCheckWord := by simp (maxDischargeDepth := 20) [skipCheckWord]

@[simp] theorem raises_readAlloc1 : Raises readAlloc1 :=
  raises_bind (raises_fbBits 4) fun _ => raises_ite (raises_throw rfl) (raises_pure _)

@[simp] theorem raises_readScfIndex : Raises readScfIndex :=
  raises_bind (raises_fbBits 6) fun _ => raises_ite (raises_throw rfl) (raises_pure _)

@[simp] theorem raises_readAllocs1 (nch bound : Nat) : Raises (readAllocs1 nch bound) := by simp (maxDischargeDepth := 20) [readAllocs1]
@[simp] theorem raises_readScfs1 (nch : Nat) : Raises (readScfs1 nch) := by simp (maxDischargeDepth := 20) [readScfs1]
@[simp] theorem raises_readSample1 (nch bound i sb : Nat) : Raises (readSample1 nch bound i sb) := by simp (maxDischargeDepth := 20) [readSample1]

@[simp] theorem raises_checkBudget1 (nch bound : Nat) : Raises (checkBudget1 nch bound) :=
  raises_budget (n := budget1 nch bound) fun _ => by unfold checkBudget1; rfl

theorem raises_parse1 (nch bound : Nat) : Raises (parse1 nch bound) := by simp (maxDischargeDepth := 20) [parse1, readSamples1]

@[simp] theorem raises_readAllocs2 (t : List AllocRow) (sblimit nch bound : Nat) :
    Raises (readAllocs2 t sblimit nch bound) := by simp (maxDischargeDepth := 20) [readAllocs2]
@[simp] theorem raises_readScfsi2 (sblimit nch : Nat) : Raises (readScfsi2 sblimit nch) := by simp (maxDischargeDepth := 20) [readScfsi2]
@[simp] theorem raises_readScf2 (ch sb : Nat) : Raises (readScf2 ch sb) := by simp (maxDischargeDepth := 20) [readScf2]
@[simp] theorem raises_readScfs2 (sblimit nch : Nat) : Raises (readScfs2 sblimit nch) := by simp (maxDischargeDepth := 20) [readScfs2]

@[simp] theorem raises_readTriple (q : QuantClass) : Raises (readTriple q) := by
  unfold readTriple
  cases q.group <;> simp (maxDischargeDepth := 20)

@[simp] theorem raises_readTriple2 (t : List AllocRow) (sblimit nch bound gr sb : Nat) :
    Raises (readTriple2 t sblimit nch bound gr sb) := by simp (maxDischargeDepth := 20) [readTriple2]

@[simp] theorem raises_checkBudget2 (t : List AllocRow) (sblimit nch bound : Nat) :
    Raises (checkBudget2 t sblimit nch bound) :=
  raises_budget (n := budget2 t sblimit nch bound) fun _ => by unfold checkBudget2; rfl

theorem raises_parse2 (t : List AllocRow) (sblimit nch bound : Nat) : Raises (parse2 t sblimit nch bound) := by
  simp (maxDischargeDepth := 20) [parse2, readTriples2]

/-! ## Layer III (R321, R322) -/

@[simp] theorem raises_readSwitched (g : Granule) : Raises (readSwitched g) := by simp (maxDischargeDepth := 20) [readSwitched]
@[simp] theorem raises_readUnswitched (g : Granule) : Raises (readUnswitched g) := by simp (maxDischargeDepth := 20) [readUnswitched]

@[simp] theorem raises_readGranule (v1 : Bool) : Raises (readGranule v1) := by
  simp (maxDischargeDepth := 20) [readGranule, readWindow, readPreflag]

theorem raises_parseSideInfo : Raises parseSideInfo := by simp (maxDischargeDepth := 20) [parseSideInfo, readScfsi, readGranules]

end Sys2Proof.Machine
end

section
/-! PROOFS. What decoding lines and spectral stages leave alone: the sinks and the reservoir among them (R321). -/

-- One theorem after another: threads that wait for each other exhaust the memory limit with their stacks.
set_option Elab.async false

namespace Sys2Proof.Machine

/-! ## The state apart from a granule's own registers -/

/-- The state without what decoding lines and the spectral stages write: `ST`, `OV`, the transient registers and the
sequencer. -/
def State.apart (s : State) : State :=
  { s with st := resetValues.st, ov := resetValues.ov, tr := Transient.zero, seq := State.reset.seq }

/-- A loop leaves alone what each of its rounds leaves alone. -/
theorem loop_fixes {σ γ : Type} (p : σ → γ) {f : Nat → σ → σ} (h : ∀ i s, p (f i s) = p s) (n : Nat) (s : σ) :
    p (loop n f s) = p s :=
  loop_induct (P := fun _ t => p t = p s) rfl fun i t _ ht => (h i t).trans ht

theorem apart_loop {f : Nat → State → State} (h : ∀ i s, (f i s).apart = s.apart) (n : Nat) (s : State) :
    (loop n f s).apart = s.apart := loop_fixes State.apart h n s

section
variable (s : State)

@[simp] theorem apart_withSt (x : Status) : (s.withSt x).apart = s.apart := rfl
@[simp] theorem apart_withOv (x : Vector (Vector (Vector Sample 18) 32) 2) : (s.withOv x).apart = s.apart := rfl
@[simp] theorem apart_withTr (x : Transient) : (s.withTr x).apart = s.apart := rfl
@[simp] theorem apart_withSeq (x : Sequencer) : (s.withSeq x).apart = s.apart := rfl

end

section
variable {s t : State} (h : t.apart = s.apart)
include h

theorem res_of_apart : t.res = s.res := by
  have hres : t.apart.res = s.apart.res := by rw [h]
  exact hres

theorem sinks_of_apart : t.sinks = s.sinks := by
  have hsinks : t.apart.sinks = s.apart.sinks := by rw [h]
  exact hsinks

theorem outSink_of_apart : t.outSink = s.outSink := by
  have hsink : t.apart.outSink = s.apart.outSink := by rw [h]
  exact hsink

theorem frm_of_apart : t.frm = s.frm := by
  have hfrm : t.apart.frm = s.apart.frm := by rw [h]
  exact hfrm

end

/-! ## Scale factors (R337 to R345) -/

@[simp] theorem apart_setFactors (ch : Nat) (f : ScaleFactors → ScaleFactors) (s : State) :
    (setFactors ch f s).apart = s.apart := apart_withTr s _

theorem apart_setLong (ch sfb v : Nat) (s : State) : (setLong ch sfb v s).apart = s.apart := apart_setFactors ch _ s

theorem apart_setShort (ch w sfb v : Nat) (s : State) : (setShort ch w sfb v s).apart = s.apart :=
  apart_setFactors ch _ s

theorem apart_readInto {len : Nat} {store : Nat → State → State} (h : ∀ v s, (store v s).apart = s.apart) (s : State) :
    (readInto len store s).apart = s.apart := h _ _

theorem apart_readShortBands (ch lo hi len : Nat) (s : State) : (readShortBands ch lo hi len s).apart = s.apart :=
  apart_loop (fun _ _ => apart_loop (fun _ _ => apart_readInto (apart_setShort ch _ _) _) _ _) _ _

theorem apart_clearFactors (gr ch : Nat) (s : State) : (clearFactors gr ch s).apart = s.apart := by
  unfold clearFactors
  split
  · dsimp only
    split <;> simp
  · simp

theorem apart_readLongBands (ch : Nat) (l : List (Nat × Nat)) (s : State) :
    (l.foldl (fun t b => readInto b.2 (setLong ch b.1) t) s).apart = s.apart := by
  induction l generalizing s with
  | nil => rfl
  | cons b l ih => exact (ih _).trans (apart_readInto (apart_setLong ch b.1) s)

theorem apart_readFactorsV1 (gr ch : Nat) (s : State) : (readFactorsV1 gr ch s).apart = s.apart := by
  unfold readFactorsV1
  dsimp only
  split
  · rw [apart_readShortBands, apart_readShortBands]
  · rw [apart_readShortBands, apart_readShortBands, apart_loop fun sfb => apart_readInto (apart_setLong ch sfb)]
  all_goals rw [apart_setLong, apart_setLong, apart_readLongBands]

theorem apart_storeLsf (k : BlockKind) (ch i len v : Nat) (s : State) : (storeLsf k ch i len v s).apart = s.apart := by
  unfold storeLsf
  cases lsfPlace k i <;> dsimp only <;> split <;> simp [setIllegal, setLong, setShort]

theorem apart_readFactorsLsf (gr ch : Nat) (s : State) : (readFactorsLsf gr ch s).apart = s.apart :=
  apart_loop (fun _ _ => apart_readInto (fun _ _ => apart_storeLsf _ _ _ _ _ _) _) _ _

theorem apart_readScaleFactors (gr ch : Nat) (s : State) : (readScaleFactors gr ch s).apart = s.apart := by
  unfold readScaleFactors
  dsimp only
  split
  · rw [apart_readFactorsV1, apart_clearFactors]
  · rw [apart_readFactorsLsf, apart_clearFactors]

/-! ## Lines (R361) -/

theorem apart_warn (e : Code) (s : State) : (warn e s).apart = s.apart := apart_withSt s _

theorem apart_finishLines (s : State) : (finishLines s).apart = s.apart := by
  simp [finishLines, setMdPos]

theorem apart_silence (ch : Nat) (s : State) : (silence ch s).apart = s.apart := by
  simp [silence]

theorem apart_storeLines (vs : List Int) (p : Nat) (s : State) : (storeLines vs p s).apart = s.apart := by
  have h (l : List (Int × Nat)) (t : State) :
      (l.foldl (fun t v => setLine s.seqCh (s.seq.line + v.2) v.1 t) t).apart = t.apart := by
    induction l generalizing t with
    | nil => rfl
    | cons b l ih => exact ih _
  exact h _ s

theorem apart_pairStep (t : Nat) (s : State) : (pairStep t s).apart = s.apart := by
  unfold pairStep
  split
  · rfl
  · cases pairWord s.cfg t s.tr.md s.seq.lim s.tr.md.pos.toNat with
    | some r => exact apart_storeLines _ _ s
    | none => exact (apart_finishLines _).trans (apart_warn _ s)

theorem apart_quadStep (sel : BitVec 1) (s : State) : (quadStep sel s).apart = s.apart := by
  unfold quadStep
  split
  · rfl
  · split
    · cases quadWord s.cfg sel s.tr.md s.seq.lim s.tr.md.pos.toNat with
      | some r => exact apart_storeLines _ _ s
      | none => exact apart_finishLines s
    · exact apart_finishLines s

theorem apart_quadRegion (sel : BitVec 1) (fuel : Nat) (s : State) : (quadRegion sel fuel s).apart = s.apart := by
  induction fuel generalizing s with
  | zero => exact apart_finishLines s
  | succ n ih =>
    unfold quadRegion
    split
    · rfl
    · rw [ih, apart_quadStep]

theorem apart_huffDecode (gr ch stop : Nat) (s : State) : (huffDecode gr ch stop s).apart = s.apart :=
  (apart_quadRegion _ _ _).trans (apart_loop (fun _ _ => apart_pairStep _ _) _ _)

theorem apart_reservedSelector (s : State) : (reservedSelector s).apart = s.apart := by
  rw [reservedSelector, apart_withSeq, apart_silence, apart_warn]

theorem apart_decodeLines (under : Bool) (gr ch p : Nat) (s : State) : (decodeLines under gr ch p s).apart = s.apart := by
  unfold decodeLines
  split
  · exact apart_silence ch s
  · cases granuleChecks gr ch p s with
    | some e => exact (apart_silence ch _).trans (apart_warn e s)
    | none => exact (apart_huffDecode _ _ _ _).trans (apart_readScaleFactors _ _ _)

/-! ## Spectral stages (R321) -/

theorem apart_requantize (gr ch : Nat) (s : State) : (requantize gr ch s).apart = s.apart := apart_withTr s _

theorem apart_hybrid (kind : BlockKind) (ch : Nat) (s : State) : (hybrid kind ch s).apart = s.apart := by
  simp [hybrid]

theorem apart_stereo (gr : Nat) (s : State) : (stereo gr s).apart = s.apart := by
  unfold stereo
  split <;> simp

/-- A granule from its lines to its hybrid stage, before its filters are fed. -/
def beforeFeed (under : Bool) (gr : Nat) (s : State) : State :=
  let l := loop s.nch (fun ch u => decodeLines under gr ch (u.bitOffset gr ch) u) s
  let a := loop l.nch (requantize gr) l
  let b := if l.nch = 2 then stereo gr a else a
  loop l.nch (fun ch u => hybrid (blockKind (u.granule gr ch)) ch u) b

theorem apart_beforeFeed (under : Bool) (gr : Nat) (s : State) : (beforeFeed under gr s).apart = s.apart := by
  have hstereo (n : Nat) (a : State) : (if n = 2 then stereo gr a else a).apart = a.apart := by
    split
    · exact apart_stereo gr a
    · rfl
  unfold beforeFeed
  dsimp only
  rw [apart_loop (fun _ _ => apart_hybrid _ _ _), hstereo, apart_loop (apart_requantize gr),
    apart_loop fun _ _ => apart_decodeLines _ _ _ _ _]

/-- A granule feeds its filters last. -/
theorem decodeGranule_eq (under : Bool) (gr : Nat) (s : State) :
    decodeGranule under gr s = loop s.nch feedHybrid (beforeFeed under gr s) := by
  have hnch : (loop s.nch (fun ch u => decodeLines under gr ch (u.bitOffset gr ch) u) s).nch = s.nch :=
    congrArg (fun f => f.channels.toNat) (frm_of_apart (apart_loop (fun _ _ => apart_decodeLines _ _ _ _ _) s.nch s))
  unfold decodeGranule granuleStages beforeFeed
  dsimp only
  rw [hnch]

/-- A granule leaves the reservoir of the frame alone (R334). -/
theorem decodeGranule_res (under : Bool) (gr : Nat) (s : State) : (decodeGranule under gr s).res = s.res := by
  rw [decodeGranule_eq, loop_fixes State.res fun ch u => (feedHybrid_frame ch u).res]
  exact res_of_apart (apart_beforeFeed under gr s)

/-- After a Layer III frame the reservoir is the newest of what its step held (R331, R334). -/
theorem decodeMain3_res (s : State) : (decodeMain3 s).res = lastN resKeep s.workingReservoir := by
  unfold decodeMain3
  rw [loop_fixes State.res (decodeGranule_res s.underRun), reservoirStep_eq]
  simp only [State.withRes_fields]

end Sys2Proof.Machine
end

section
/-! PROOFS. How many samples each channel of the bound sink gets (R96, R277, R305, R429). -/

-- One theorem after another: threads that wait for each other exhaust the memory limit with their stacks.
set_option Elab.async false

namespace Sys2Proof.Machine

/-- The samples that channel ch of the bound sink holds. -/
def State.sampleCount (s : State) (ch : Nat) : Nat := (rd (rd s.sinks s.outSink.toNat).data ch).length

/-- From s to t channel ch of the bound sink gets `n ch` samples, and no other sink is touched. -/
structure Emits (n : Nat → Nat) (s t : State) : Prop where
  outSink : t.outSink = s.outSink
  count : s.outSink ≠ 0 → ∀ ch < 2, t.sampleCount ch = s.sampleCount ch + n ch
  others : ∀ k < 256, k ≠ s.outSink.toNat → rd t.sinks k = rd s.sinks k

section
variable {n m : Nat → Nat} {s t u : State}

/-- What leaves the sink port alone emits nothing. -/
theorem emits_nothing (ho : t.outSink = s.outSink) (hs : t.sinks = s.sinks) : Emits (fun _ => 0) s t where
  outSink := ho
  count := fun _ _ _ => by rw [State.sampleCount, ho, hs]; rfl
  others := fun _ _ _ => by rw [hs]

theorem Emits.trans (h : Emits n s t) (k : Emits m t u) : Emits (fun c => n c + m c) s u where
  outSink := k.outSink.trans h.outSink
  count := fun ho ch hch => by
    rw [k.count (h.outSink ▸ ho) ch hch, h.count ho ch hch, Nat.add_assoc]
  others := fun i hi hne => (k.others i hi (h.outSink ▸ hne)).trans (h.others i hi hne)

/-- A count may be written in another way. -/
theorem Emits.congr (h : Emits n s t) (hnm : ∀ ch < 2, n ch = m ch) : Emits m s t :=
  ⟨h.outSink, fun ho ch hch => by rw [h.count ho ch hch, hnm ch hch], h.others⟩

theorem emits_of_apart (h : t.apart = s.apart) : Emits (fun _ => 0) s t :=
  emits_nothing (outSink_of_apart h) (sinks_of_apart h)

/-- Rounds that emit alike. -/
theorem emits_loop {f : Nat → State → State} (h : ∀ i s, Emits n s (f i s)) (k : Nat) (s : State) :
    Emits (fun c => k * n c) s (loop k f s) :=
  loop_induct (P := fun i t => Emits (fun c => i * n c) s t)
    ((emits_nothing rfl rfl).congr fun _ _ => (Nat.zero_mul _).symm)
    fun i t _ ht => (ht.trans (h i t)).congr fun _ _ => (Nat.succ_mul ..).symm

/-- Rounds that feed channel after channel. -/
theorem emits_channels {f : Nat → State → State} {x : Nat}
    (h : ∀ ch s, Emits (fun c => if c = ch then x else 0) s (f ch s)) (k : Nat) (s : State) :
    Emits (fun c => if c < k then x else 0) s (loop k f s) := by
  refine loop_induct (P := fun i t => Emits (fun c => if c < i then x else 0) s t)
    ((emits_nothing rfl rfl).congr fun _ _ => rfl) fun i t _ ht => (ht.trans (h i t)).congr fun c _ => ?_
  split_ifs <;> omega

end

/-! ## Synthesis calls (R250) -/

/-- Samples appended to the bound sink. -/
theorem emits_sinkAppend (ch : Nat) (xs : List Pcm) (s : State) :
    Emits (fun c => if c = ch then xs.length else 0) s (sinkAppend ch xs s) where
  outSink := by unfold sinkAppend; rw [onSink_fields]; rfl
  count := fun ho c hc => by
    have hk : s.outSink.toNat < 256 := s.outSink.isLt
    have hout : (sinkAppend ch xs s).outSink = s.outSink := by unfold sinkAppend; rw [onSink_fields]; rfl
    unfold State.sampleCount
    rw [hout]
    unfold sinkAppend
    rw [rd_onSink _ _ _ hk, if_pos ⟨ho, rfl⟩, rd_upd]
    by_cases h : c = ch
    · subst h; simp [hc]
    · rw [if_neg (fun k => h k.1.symm), if_neg h]; rfl
  others := fun k hk hne => by
    unfold sinkAppend
    rw [rd_onSink _ _ _ hk, if_neg fun h => hne h.2]

theorem length_emit (c : Config) (v : Vector Sample 1024) : (emit c v).length = 32 := by simp [emit]

/-- A synthesis call emits 32 samples (R250). -/
theorem emits_feedSynth (ch : Nat) (x : Vector Sample 32) (s : State) :
    Emits (fun c => if c = ch then 32 else 0) s (feedSynth ch x s) := by
  unfold feedSynth synth synthCall
  generalize hb : eqBoundary (s.withTr { s.tr with sbs := wr s.tr.sbs ch x }) = b
  have hframe := eqw_boundary (s.withTr { s.tr with sbs := wr s.tr.sbs ch x })
  rw [hb] at hframe
  have hquiet (f : Vector SynthFilter 2) : Emits (fun _ => 0) s (b.withSf f) :=
    emits_nothing hframe.outSink hframe.sinks
  refine ((hquiet _).trans (emits_sinkAppend ch _ _)).congr fun c _ => ?_
  rw [length_emit, Nat.zero_add]

/-- Feeding n sample sets of `GRID` emits 32 * n samples in each channel (R277, R305). -/
theorem emits_feedGrid (n nch : Nat) (s : State) :
    Emits (fun c => if c < nch then 32 * n else 0) s (feedGrid n nch s) :=
  (emits_loop (fun _ _ => emits_channels (fun _ _ => emits_feedSynth _ _ _) _ _) _ _).congr fun c _ => by
    split_ifs <;> omega

/-- A granule emits 576 samples in each channel (R429). -/
theorem emits_decodeGranule (under : Bool) (gr : Nat) (s : State) :
    Emits (fun c => if c < s.nch then 576 else 0) s (decodeGranule under gr s) := by
  rw [decodeGranule_eq]
  have hfeed (ch : Nat) (u : State) : Emits (fun c => if c = ch then 576 else 0) u (feedHybrid ch u) :=
    (emits_loop (fun _ _ => emits_feedSynth ch _ _) 18 u).congr fun c _ => by split_ifs <;> rfl
  exact ((emits_of_apart (apart_beforeFeed under gr s)).trans (emits_channels hfeed _ _)).congr fun c _ => Nat.zero_add _

theorem emits_reservoirStep (s : State) : Emits (fun _ => 0) s (reservoirStep s) := by
  refine emits_nothing (granular_reservoirStep s).frame.outSink ?_
  rw [reservoirStep_eq]
  split <;> simp [warn]

/-- The granules of a frame emit 576 samples each in each channel (R321, R429). -/
theorem emits_decodeMain3 (s : State) :
    Emits (fun c => if c < s.nch then 576 * s.ngr else 0) s (decodeMain3 s) := by
  have hround := loop_induct (n := s.ngr) (f := decodeGranule s.underRun) (s := reservoirStep s)
    (P := fun i t => t.frm = s.frm ∧ Emits (fun c => i * if c < s.nch then 576 else 0) s t)
    ⟨(granular_reservoirStep s).frame.frm, (emits_reservoirStep s).congr fun _ _ => (Nat.zero_mul _).symm⟩
    fun i t _ ⟨hfrm, ht⟩ => by
      have hnch : t.nch = s.nch := by unfold State.nch; rw [hfrm]
      have hgr := emits_decodeGranule s.underRun i t
      rw [hnch] at hgr
      exact ⟨((granular_decodeGranule s.underRun i t).frame.frm).trans hfrm,
        (ht.trans hgr).congr fun _ _ => (Nat.succ_mul ..).symm⟩
  exact hround.2.congr fun c _ => by split_ifs <;> omega

end Sys2Proof.Machine
end

section
/-! PROOFS. `DECODE_FRAME` past its checks and short of them: the layer decoder's end is the command's, and what a
frame leaves in the reservoir and in the bound sink (R331, R441 to R450). -/

-- One theorem after another: threads that wait for each other exhaust the memory limit with their stacks.
set_option Elab.async false

namespace Sys2Proof.Machine

open Act

/-! ## Ends of a body -/

section
variable {α : Type} {a : Act α} {s t : State} {Q : α → State → Prop} {E : Code → State → Prop}

theorem Act.Ends.of_ok {v : α} (h : Ends a Q E s) (ha : a s = .ok v t) : Q v t := by
  unfold Ends at h
  simpa only [ha] using h

theorem Act.Ends.of_error {e : Code} (h : Ends a Q E s) (ha : a s = .error e t) : E e t := by
  unfold Ends at h
  simpa only [ha] using h

/-- A body ends as it ends. -/
theorem Act.ends_self (a : Act α) (s : State) :
    Ends a (fun v t => a s = .ok v t) (fun e t => a s = .error e t) s := by
  unfold Ends
  cases h : a s <;> simp only

end

/-! ## The layer decoders (R447) -/

/-- What a layer decoder does once its parse is over: it cannot fail any more (R277, R305, R321). -/
def finishLayer (layer : Nat) (s : State) : State :=
  if layer = 1 then feedGrid 12 s.nch s else if layer = 2 then feedGrid 36 s.nch s else decodeMain3 s

/-- The end of a layer decoder: after a parse its output, or an error of the parse. -/
def LayerEnds (a : Act Unit) (finish : State → State) (s : State) : Prop :=
  Ends a (fun _ t => ∃ u, Parses s u ∧ t = finish u) (fun e t => e.isError = true ∧ Parses s t) s

theorem nch_of_frm {s t : State} (h : t.frm = s.frm) : t.nch = s.nch := congrArg (fun f => f.channels.toNat) h

theorem ngr_of_frm {s t : State} (h : t.frm = s.frm) : t.ngr = s.ngr :=
  congrArg (fun f : Frm => if f.version = 1 then 2 else 1) h

theorem decode1_ends (s : State) : LayerEnds decode1 (fun u => feedGrid 12 u.nch u) s := by
  unfold LayerEnds decode1
  rw [ends_bind, ends_get, ends_bind]
  refine ((raises_parse1 s.nch s.jointBound s).and_keeps (parse1_parses _ _)).mono (fun _ u hu => ?_) fun _ _ he => he
  rw [ends_modify]
  exact ⟨u, hu.2, by dsimp only; rw [nch_of_frm hu.2.1.frm]⟩

theorem decode2_ends (s : State) : LayerEnds decode2 (fun u => feedGrid 36 u.nch u) s := by
  unfold LayerEnds decode2
  rw [ends_bind, ends_get]
  dsimp only
  rw [ends_bind]
  refine ((raises_parse2 s.allocTable2.1 s.allocTable2.2 s.nch (min s.jointBound s.allocTable2.2) s).and_keeps
    (parse2_parses _ _ _ _)).mono (fun _ u hu => ?_) fun _ _ he => he
  rw [ends_modify]
  exact ⟨u, hu.2, by rw [nch_of_frm hu.2.1.frm]⟩

theorem decode3_layerEnds (s : State) : LayerEnds decode3 decodeMain3 s := by
  unfold LayerEnds decode3
  rw [ends_bind]
  refine ((raises_skipCheckWord s).and_keeps skipCheckWord_parses).mono (fun _ t ht => ?_) fun _ _ he => he
  rw [ends_bind]
  refine ((raises_parseSideInfo t).and_keeps parseSideInfo_parses).mono (fun _ u hu => ?_)
    fun _ u hu => ⟨hu.1, ht.2.trans _ _ _ hu.2⟩
  rw [ends_modify]
  exact ⟨u, ht.2.trans _ _ _ hu.2, rfl⟩

theorem decodeLayer_ends (layer : Nat) (s : State) : LayerEnds (decodeLayer layer) (finishLayer layer) s := by
  by_cases h1 : layer = 1
  · subst h1; exact decode1_ends s
  · by_cases h2 : layer = 2
    · subst h2; exact decode2_ends s
    · have hd : decodeLayer layer = decode3 := by rw [decodeLayer, if_neg h1, if_neg h2]
      have hf : finishLayer layer = decodeMain3 := by
        funext u
        rw [finishLayer, if_neg h1, if_neg h2]
      rw [hd, hf]
      exact decode3_layerEnds s

theorem granular_finishLayer (layer : Nat) (s : State) : Granular s (finishLayer layer s) := by
  unfold finishLayer
  split_ifs
  · exact granular_of_synth (feedGrid_frame _ _ s) (synthKeeps_grid _ _ s)
  · exact granular_of_synth (feedGrid_frame _ _ s) (synthKeeps_grid _ _ s)
  · exact granular_decodeMain3 s

/-- Layers I and II leave the reservoir alone. -/
theorem finishLayer_res {layer : Nat} (h : layer = 1 ∨ layer = 2) (s : State) : (finishLayer layer s).res = s.res := by
  obtain rfl | rfl := h
  · exact (feedGrid_frame 12 s.nch s).res
  · exact (feedGrid_frame 36 s.nch s).res

/-- The samples of a frame of a layer in each channel (R277, R305, R321). -/
def layerSamples (layer ngr : Nat) : Nat := if layer = 1 then 384 else if layer = 2 then 1152 else 576 * ngr

theorem emits_finishLayer (layer : Nat) (s : State) :
    Emits (fun c => if c < s.nch then layerSamples layer s.ngr else 0) s (finishLayer layer s) := by
  unfold finishLayer layerSamples
  split_ifs
  · exact emits_feedGrid 12 s.nch s
  · exact emits_feedGrid 36 s.nch s
  · exact emits_decodeMain3 s

/-! ## DECODE_FRAME past its checks (R441) -/

/-- A layer decoder keeps `FRM`. -/
theorem decodeLayer_frm {layer : Nat} {s t : State} {v : Unit} (h : decodeLayer layer s = .ok v t) : t.frm = s.frm := by
  obtain ⟨u, hu, rfl⟩ := (decodeLayer_ends layer s).of_ok h
  exact (granular_finishLayer layer u).frame.frm.trans hu.1.frm

/-- Settles O21: the body past its checks is the layer decoder from `frameStart`. -/
theorem decodeFrameRunsItsLayer : Obligations.DecodeFrameRunsItsLayer := by
  unfold Obligations.DecodeFrameRunsItsLayer
  intro s hi hr
  have hbody := (decodeFrameBody_ends hi hr).mp (ends_self decodeFrameBody (startCommand s))
  rw [exec_decodeFrame]
  cases hd : decodeLayer s.frm.layer.toNat (frameStart s) with
  | ok v u =>
    have hfrm : u.frm = s.frm := by rw [decodeLayer_frm hd, frameStart_eq]
    have hrun := hbody.of_ok hd
    rw [hfrm] at hrun
    simp only [runCommand, hrun]
  | error e u => simp only [runCommand, hbody.of_error hd]

section
variable {s u : State} (hi : BrInv s) (hr : FrameReady s)
include hi hr

theorem exec_decodeFrame_of_ok {v : Unit} (h : decodeLayer s.frm.layer.toNat (frameStart s) = .ok v u) :
    exec .decodeFrame s = .next (endCommand .ok (s.frm.spf.setWidth 32) (forgetFb u)) := by
  rw [decodeFrameRunsItsLayer s hi hr, h]

theorem exec_decodeFrame_of_error {e : Code} (h : decodeLayer s.frm.layer.toNat (frameStart s) = .error e u) :
    exec .decodeFrame s = .next (endCommand e 0 (forgetFb u)) := by
  rw [decodeFrameRunsItsLayer s hi hr, h]

end

/-- The end of a frame writes `ST`, `FB` and the command port. -/
theorem endCommand_forgetFb_fields (e : Code) (v : BitVec 32) (u : State) :
    (endCommand e v (forgetFb u)).br = u.br ∧ (endCommand e v (forgetFb u)).hdr = u.hdr ∧
    (endCommand e v (forgetFb u)).frm = u.frm ∧ (endCommand e v (forgetFb u)).ses = u.ses ∧
    (endCommand e v (forgetFb u)).outSink = u.outSink ∧ (endCommand e v (forgetFb u)).res = u.res ∧
    (endCommand e v (forgetFb u)).made = u.made ∧ (endCommand e v (forgetFb u)).src = u.src ∧
    (endCommand e v (forgetFb u)).sinks = u.sinks ∧ (endCommand e v (forgetFb u)).cfg = u.cfg := by
  refine ⟨rfl, rfl, rfl, rfl, rfl, rfl, rfl, rfl, rfl, rfl⟩

/-! ## The reservoir after a frame (R331, R334) -/

theorem makeSlot_three_res (s : State) : (makeSlot 3 s).res = s.reservoir := by
  unfold makeSlot State.reservoir
  cases h : s.made.l3 <;> simp [Slots.get, h]

/-- A Layer III frame meets the reservoir of its slot. -/
theorem frameStart_res {s : State} (hl : s.frm.layer = 3) : (frameStart s).res = s.reservoir := by
  unfold frameStart sinkClear
  rw [onSink_fields, hl]
  simp only [State.withSinks_fields]
  refine (makeSlot_three_res _).trans ?_
  rw [takeBody_eq, openSession_eq]
  rfl

/-- What a parse leaves of the working reservoir: the reservoir and the frame's own main-data area. -/
theorem workingReservoir_of_parse {s u : State} (hl : s.frm.layer = 3) (h : Parses (frameStart s) u) :
    u.workingReservoir = s.reservoir ++ s.mainData := by
  have hp := h.1
  unfold State.workingReservoir State.mdOff
  rw [hp.res, hp.fbBytes, hp.hdr, hp.frm, frameStart_res hl, frameStart_eq]
  rfl

/-- Settles O29: the granules leave the reservoir as its step made it. -/
theorem reservoirKeepsTheNewestBytes : Obligations.ReservoirKeepsTheNewestBytes := by
  unfold Obligations.ReservoirKeepsTheNewestBytes
  intro s t hs hr hl hexec
  have hres : t.res = lastN resKeep (s.reservoir ++ s.mainData) := by
    have hlayer : s.frm.layer.toNat = 3 := by rw [hl]; rfl
    have hends := decode3_ends (frameStart_room hs.held hr.valid hl)
    obtain ⟨v, w, hok⟩ : ∃ v w, decode3 (frameStart s) = .ok v w := by
      cases hd : decode3 (frameStart s) with
      | ok v w => exact ⟨v, w, rfl⟩
      | error e w => exact (hends.of_error hd).elim
    obtain ⟨u, hu, rfl⟩ := (decode3_layerEnds _).of_ok hok
    rw [exec_decodeFrame_of_ok hs.br hr (by rw [hlayer]; exact hok)] at hexec
    rw [← Host.Outcome.next.inj hexec]
    simp only [endCommand_forgetFb_fields]
    rw [decodeMain3_res, workingReservoir_of_parse hl hu]
  refine ⟨by rw [hres, lastN, resKeep], ?_⟩
  rw [hres, lastN_length, List.length_append, resKeep]

end Sys2Proof.Machine
end

section
/-! PROOFS. The invariant of the machine under each update of a register group, and under every command. -/

-- One theorem after another: threads that wait for each other exhaust the memory limit with their stacks.
set_option Elab.async false

namespace Sys2Proof.Machine

open Act

/-! ## What each part of the invariant speaks of -/

section
variable {s t : State}

theorem BrInv.congr (h : BrInv s) (hbr : t.br = s.br) (hsrc : t.src = s.src) : BrInv t := brInv_congr hbr hsrc h

theorem StInv.congr (h : StInv s) (hst : t.st = s.st) : StInv t := stInv_of_eq hst h

theorem SesInv.congr (h : SesInv s) (hses : t.ses = s.ses) (hmade : t.made = s.made) : SesInv t :=
  ⟨by rw [hses, hmade]; exact h.off, by rw [hses]; exact h.on⟩

theorem ResInv.congr (h : ResInv s) (hres : t.res = s.res) (hmade : t.made = s.made) : ResInv t :=
  ⟨by rw [hres]; exact h.len, by rw [hres, hmade]; exact h.slot⟩

theorem SinkInv.congr (h : SinkInv s) (hout : t.outSink = s.outSink) (hcfg : t.cfg = s.cfg)
    (hnull : rd t.sinks 0 = rd s.sinks 0) : SinkInv t :=
  ⟨by rw [hout, hcfg]; exact h.bound, hnull.trans h.null⟩

/-- The registers that the invariant does not speak of may differ. -/
theorem Inv.of_frame (hs : Inv s)
    (h : t = { s with
      sf := t.sf, ov := t.ov, tr := t.tr, seq := t.seq, cp := t.cp, ep := t.ep, freeCtr := t.freeCtr }) : Inv t := by
  rw [h]
  exact ⟨hs.br.congr rfl rfl, hs.held, hs.eq, hs.ses.congr rfl rfl, hs.res.congr rfl rfl,
    hs.st.congr rfl, hs.sink.congr rfl rfl rfl, hs.vbr, hs.fb⟩

/-! ## One register group -/

theorem Inv.withBr (hs : Inv s) {x : BitReader} (hx : BrInv (s.withBr x)) : Inv (s.withBr x) :=
  ⟨hx, hs.held, hs.eq, hs.ses.congr rfl rfl, hs.res.congr rfl rfl, hs.st.congr rfl,
    hs.sink.congr rfl rfl rfl, hs.vbr, hs.fb⟩

theorem Inv.withSt (hs : Inv s) {x : Status} (hx : StInv (s.withSt x)) : Inv (s.withSt x) :=
  ⟨hs.br.congr rfl rfl, hs.held, hs.eq, hs.ses.congr rfl rfl, hs.res.congr rfl rfl, hx,
    hs.sink.congr rfl rfl rfl, hs.vbr, hs.fb⟩

theorem Inv.withEq (hs : Inv s) {x : Vector Sample 32} (hx : EqInv (s.withEq x)) : Inv (s.withEq x) :=
  ⟨hs.br.congr rfl rfl, hs.held, hx, hs.ses.congr rfl rfl, hs.res.congr rfl rfl,
    hs.st.congr rfl, hs.sink.congr rfl rfl rfl, hs.vbr, hs.fb⟩

theorem Inv.withSes (hs : Inv s) {x : Ses} (hx : SesInv (s.withSes x)) (hvbr : s.frm.vbr = true → x.vbr = true) :
    Inv (s.withSes x) :=
  ⟨hs.br.congr rfl rfl, hs.held, hs.eq, hx, hs.res.congr rfl rfl, hs.st.congr rfl,
    hs.sink.congr rfl rfl rfl, hvbr, hs.fb⟩

theorem Inv.withFb (hs : Inv s) {x : FrameBuffer} (hx : x.pos.toNat ≤ 8 * x.bytes.length) : Inv (s.withFb x) :=
  ⟨hs.br.congr rfl rfl, hs.held, hs.eq, hs.ses.congr rfl rfl, hs.res.congr rfl rfl,
    hs.st.congr rfl, hs.sink.congr rfl rfl rfl, hs.vbr, hx⟩

theorem Inv.withSrc (hs : Inv s) {x : Source} (hx : BrInv (s.withSrc x)) : Inv (s.withSrc x) :=
  ⟨hx, hs.held, hs.eq, hs.ses.congr rfl rfl, hs.res.congr rfl rfl, hs.st.congr rfl,
    hs.sink.congr rfl rfl rfl, hs.vbr, hs.fb⟩

theorem Inv.withOutSink (hs : Inv s) {x : BitVec 8} (hx : x = 0 ∨ x.toNat < s.cfg.nSinks.val) : Inv (s.withOutSink x) :=
  ⟨hs.br.congr rfl rfl, hs.held, hs.eq, hs.ses.congr rfl rfl, hs.res.congr rfl rfl,
    hs.st.congr rfl, ⟨hx, hs.sink.null⟩, hs.vbr, hs.fb⟩

theorem inv_onSink (hs : Inv s) (f : Sink → Sink) : Inv (onSink f s) := by
  have hnull := null_onSink f s
  rw [onSink_fields] at hnull ⊢
  exact ⟨hs.br.congr rfl rfl, hs.held, hs.eq, hs.ses.congr rfl rfl, hs.res.congr rfl rfl,
    hs.st.congr rfl, hs.sink.congr rfl rfl hnull, hs.vbr, hs.fb⟩

/-- A header that is no longer held. -/
theorem inv_dropHeader (hs : Inv s) : Inv (s.withHdr { s.hdr with valid := false }) :=
  ⟨hs.br.congr rfl rfl, nofun, hs.eq, hs.ses.congr rfl rfl, hs.res.congr rfl rfl,
    hs.st.congr rfl, hs.sink.congr rfl rfl rfl, hs.vbr, hs.fb⟩

theorem inv_clearHeader (hs : Inv s) : Inv (clearHeader s) :=
  ⟨hs.br.congr rfl rfl, nofun, hs.eq, hs.ses.congr rfl rfl, hs.res.congr rfl rfl,
    hs.st.congr rfl, hs.sink.congr rfl rfl rfl, nofun, hs.fb⟩

theorem inv_acceptHeader (hs : Inv s) {h : HeaderFields} {p : BitVec 64}
    (hc : headerClass s.cfg.syncBits h ∈ [.layer1, .layer2, .layer3]) : Inv (acceptHeader h p s) :=
  ⟨hs.br.congr rfl rfl, heldInv_acceptHeader hc, hs.eq, ⟨hs.ses.off, hs.ses.on⟩,
    hs.res.congr rfl rfl, hs.st.congr rfl, hs.sink.congr rfl rfl rfl, id,
    hs.fb⟩

/-! ## Frames -/

/-- What decoding a granule or a boundary of `EQW` writes keeps the invariant. -/
theorem inv_granular (hs : Inv s) (h : Granular s t) (hslot : t.made.l3 = false → t.res = []) : Inv t := by
  have hf := h.frame
  refine ⟨hs.br.congr hf.br hf.src, ?_, h.synth.1 hs.eq, hs.ses.congr hf.ses hf.made,
    ⟨h.res hs.res.len, hslot⟩, h.synth.2.2 hs.st, hs.sink.congr hf.outSink hf.cfg h.synth.2.1, ?_, ?_⟩
  · unfold HeldInv
    rw [hf.hdr, hf.cfg, hf.frm]
    exact hs.held
  · rw [hf.frm, hf.ses]; exact hs.vbr
  · rw [hf.fb]; exact hs.fb

theorem inv_granular_res (hs : Inv s) (h : Granular s t) (hres : t.res = s.res) : Inv t :=
  inv_granular hs h (by rw [hres, h.frame.made]; exact hs.res.slot)

theorem inv_eqBoundary (hs : Inv s) : Inv (eqBoundary s) :=
  inv_granular_res hs (granular_of_synth (.of_eqw (eqw_boundary s)) (synthKeeps_boundary s)) (eqw_boundary s).res

theorem ParseFrame.eq_with (h : ParseFrame s t) : t = (s.withFb t.fb).withTr t.tr := by
  cases s; cases t; cases h
  simp_all [State.withFb, State.withTr]

theorem inv_parses (hs : Inv s) (h : Parses s t) : Inv t := by
  rw [h.1.eq_with]
  exact (hs.withFb (x := t.fb) (h.2 hs.fb)).of_frame rfl

end

/-! ## Pulling and reading (R84, R181) -/

section
variable {s : State} (hs : Inv s)
include hs

theorem Inv.withPos {p : Nat} (h : p ≤ 8 * s.br.pulled.toNat) : Inv (s.withPos p) := hs.withBr (brInv_withPos hs.br h)

theorem inv_pullTo {need : Nat} (hn : need < 2 ^ 64) : Inv (pullTo need s) := by
  have hbr : BrInv (s.withBr (pullTo need s).br) :=
    (pullTo_inv hs.br hn).1.congr rfl (pullTo_frame need s).src.symm
  rw [pullTo_eq]
  exact (hs.withBr hbr).of_frame rfl

/-- A read keeps the invariant; one that succeeds moves the cursor past the bits it took. -/
theorem inv_readBits {n : Nat} (hp : s.br.pos.toNat + n < 2 ^ 64) :
    Ends (readBits n) (fun _ t => Inv t ∧ t.br.pos.toNat = s.br.pos.toNat + n)
      (fun e t => e.isError = true ∧ Inv t) s := by
  have hpull := inv_pullTo hs (bytesFor_lt hp)
  unfold Ends
  rw [readBits_eq]
  by_cases h : (pullTo (bytesFor (s.br.pos.toNat + n)) s).br.pulled.toNat < bytesFor (s.br.pos.toNat + n)
  · rw [if_pos h]
    exact ⟨rfl, hpull⟩
  · rw [if_neg h]
    exact ⟨hpull.withPos (bytesFor_le_iff.mp (Nat.not_lt.mp h)), Nat.mod_eq_of_lt hp⟩

end

/-! ## Commands -/

theorem inv_startCommand {s : State} (hs : Inv s) : Inv (startCommand s) :=
  hs.withSt ⟨hs.st.code, by simp, by simp⟩

theorem inv_endCommand {s : State} (hs : Inv s) {e : Code} (he : e = .ok ∨ e.isError = true) (v : BitVec 32) :
    Inv (endCommand e v s) :=
  Inv.of_frame (s := latchResult e.toByte s.st.first v s)
    (hs.withSt ⟨Code.toByte_legal he, hs.st.first, hs.st.first⟩) rfl

/-- The body keeps the invariant however it ends, and raises error codes only. -/
def Safe {α : Type} (body : Act α) (s : State) : Prop :=
  Ends body (fun _ t => Inv t) (fun e t => e.isError = true ∧ Inv t) s

theorem inv_runCommand {s : State} {body : Act (BitVec 32)} (h : Safe body (startCommand s)) :
    Inv (runCommand body s) := by
  obtain ⟨v, t, ht, hrun⟩ | ⟨e, t, ⟨he, ht⟩, hrun⟩ := runCommand_of_ends h <;> rw [hrun]
  · exact inv_endCommand ht (.inl rfl) v
  · exact inv_endCommand ht (.inr he) 0

/-- A body that writes the state once. -/
theorem safe_modify {f : State → State} {s : State} (h : Inv (f s)) :
    Safe (modify f >>= fun _ => (pure 0 : Act (BitVec 32))) s :=
  (ends_bind ..).mpr ((ends_modify f).mpr ((ends_pure 0).mpr h))

section
variable {s : State} (hs : Inv s)
include hs

theorem safe_throw {α : Type} {e : Code} (he : e.isError = true) : Safe (throw e : Act α) s := (ends_throw e).mpr ⟨he, hs⟩

theorem safe_readbitsBody (n : Nat) : Safe (readbitsBody n) s := by
  unfold Safe readbitsBody
  rw [ends_ite]
  split_ifs
  · simp only [ends_bind, ends_get, cursorCheck_ends]
    split_ifs with hp
    · exact (inv_readBits hs hp).mono (fun _ _ ht => (ends_pure _).mpr ht.1) fun _ _ he => he
    · exact ⟨rfl, hs⟩
  · exact safe_throw hs rfl

end

/-! ### SYNC (R186) -/

/-- A pattern that the scan finds has both its bytes in the list. -/
theorem syncScan_bounds {m : Byte} {l : List Byte} {p q : Nat} (h : syncScan m l p = some q) :
    p ≤ q ∧ q + 1 < p + l.length := by
  induction l generalizing p with
  | nil => exact nomatch h
  | cons b0 l ih =>
    cases l with
    | nil => exact nomatch h
    | cons b1 rest =>
      simp only [syncScan] at h
      split_ifs at h
      · simp only [Option.some.injEq] at h
        simp only [List.length_cons]
        omega
      · have := ih h
        simp only [List.length_cons] at this ⊢
        omega

theorem length_stream_le (s : State) : s.stream.length ≤ s.src.bytes.length := by
  unfold State.stream
  split
  · simp
  · exact Nat.le_refl _

theorem syncFind_bounds {s : State} {p : Nat} (h : syncFind s = some p) : p + 1 < s.stream.length := by
  have := syncScan_bounds h
  simp only [List.length_drop] at this
  omega

theorem safe_syncBody {s : State} (hs : Inv s) : Safe syncBody s := by
  unfold Safe syncBody
  simp only [ends_bind, ends_get, cursorCheck_ends]
  have hle := length_stream_le s
  split_ifs with hstart
  · cases hf : syncFind s with
    | some p =>
      simp only [ends_bind, cursorCheck_ends, ends_set, ends_pure]
      split_ifs with hp
      · obtain ⟨-, -, hpull⟩ := pullTo_inv (need := p + 2) hs.br (by omega)
        have := syncFind_bounds hf
        exact (inv_pullTo hs (by omega)).withPos (by omega)
      · exact ⟨rfl, hs⟩
    | none =>
      simp only [ends_bind, cursorCheck_ends, ends_set, ends_throw]
      split_ifs with hp
      · refine ⟨rfl, ?_⟩
        by_cases he : s.br.eod = true
        · rw [pullTo_same (.inl he)]
          exact hs.withPos (Nat.le_refl _)
        · have hst : s.stream = s.src.bytes := by simp [State.stream, he]
          rw [hst] at hp
          exact (inv_pullTo hs (by omega)).withPos (Nat.le_refl _)
      · exact ⟨rfl, hs⟩
  · exact ⟨rfl, hs⟩

/-! ### PARSE_HEADER (R201) -/

/-- A refused header has its 32 bits behind it, so the cursor 8 bits after its start is covered. -/
theorem safe_refuseHeader {α : Type} {s : State} (hs : Inv s) {start : BitVec 64} {e : Code} (he : e.isError = true)
    (h : start.toNat + 32 ≤ 8 * s.br.pulled.toNat) : Safe (refuseHeader start e : Act α) s := by
  unfold Safe refuseHeader Ends
  exact ⟨he, (inv_clearHeader hs).withPos (by show start.toNat + 8 ≤ 8 * s.br.pulled.toNat; omega)⟩

theorem safe_judgeHeader {s : State} (hs : Inv s) (h : HeaderFields) {start : BitVec 64}
    (hcover : start.toNat + 32 ≤ 8 * s.br.pulled.toNat) : Safe (judgeHeader h start) s := by
  unfold Safe judgeHeader
  rw [ends_bind, ends_get]
  cases hc : headerClass s.cfg.syncBits h
  case layer1 | layer2 | layer3 => exact (ends_modify _).mpr (inv_acceptHeader hs (by simp [hc]))
  all_goals exact safe_refuseHeader hs rfl hcover

/-- The fetch of a header word keeps the invariant and moves the cursor past the word. -/
theorem inv_fetchHeader {s : State} (hs : Inv s) (hp : s.br.pos.toNat + 32 < 2 ^ 64) :
    Ends fetchHeader (fun _ t => Inv t ∧ t.br.pos.toNat = s.br.pos.toNat + 32)
      (fun e t => e.isError = true ∧ Inv t) s := by
  have hread := inv_readBits hs hp
  unfold Ends
  cases hr : readBits 32 s with
  | ok w t =>
    rw [fetchHeader_of_ok hr]
    exact hread.of_ok hr
  | error e t =>
    rw [fetchHeader_of_error hr]
    obtain ⟨he, ht⟩ := hread.of_error hr
    exact ⟨he, inv_clearHeader ht⟩

theorem safe_parseHeaderBody {s : State} (hs : Inv s) : Safe parseHeaderBody s := by
  unfold Safe parseHeaderBody
  simp only [ends_bind, ends_get, cursorCheck_ends, ends_modify]
  split_ifs with hp
  · refine (inv_fetchHeader (inv_dropHeader hs) hp).mono (fun w t ht => ?_) fun _ _ he => he
    have hcover : s.br.pos.toNat + 32 ≤ 8 * t.br.pulled.toNat := ht.2 ▸ ht.1.br.pos
    exact (safe_judgeHeader ht.1 (splitHeader w) hcover).mono (fun _ u hu => (ends_pure _).mpr hu) fun _ _ he => he
  · exact ⟨rfl, hs⟩

/-- A refused header row, with the word fetched (R136). -/
theorem safe_refuseFetched {s : State} (hs : Inv s) {e : Code} (he : e.isError = true) (hpos : 32 ≤ s.br.pos.toNat) :
    Safe (refuseFetched e) s := by
  have hcover := hs.br.pos
  unfold Safe refuseFetched
  rw [ends_bind, ends_get]
  refine safe_refuseHeader hs he ?_
  have : (s.br.pos - 32).toNat + 32 = s.br.pos.toNat := by bv_omega
  unfold fetchedStart
  omega

end Sys2Proof.Machine
end

section
/-! PROOFS. `DECODE_FRAME` keeps the invariant, on each of its ends (R441 to R449). -/

-- One theorem after another: threads that wait for each other exhaust the memory limit with their stacks.
set_option Elab.async false

namespace Sys2Proof.Machine

open Act

/-! ## Short of its checks (R442) -/

/-- The channels of an accepted header (R208). -/
theorem channels_of_held {s : State} (hh : HeldInv s) (hv : s.hdr.valid = true) :
    s.frm.channels = 1 ∨ s.frm.channels = 2 := by
  obtain ⟨-, hfrm⟩ := hh hv
  rw [hfrm]
  simp only [headerFrm, headerChannels]
  split
  · exact .inl rfl
  · exact .inr rfl

/-- A session is opened from an accepted header (R443). -/
theorem inv_openSession {s : State} (hs : Inv s) (hch : s.frm.channels = 1 ∨ s.frm.channels = 2) :
    Inv (openSession s) := by
  unfold openSession
  split
  · exact hs
  · exact hs.withSes ⟨nofun, fun _ => hch⟩ hs.vbr

/-- With a body that ends in the stream, its bytes are all there (R445). -/
theorem fetchBody_short {s : State} (hs : Inv s) (hin : s.bodyEnd < 2 ^ 64) (hbody : ¬ s.bodyEnd ≤ 8 * s.src.bytes.length) :
    Ends fetchBody (fun _ _ => False) (fun e t => e.isError = true ∧ Inv t) s := by
  have hc := mt (pullTo_covers hs.br hin).mp hbody
  unfold fetchBody Ends
  simp only [if_pos (Nat.not_le.mp hc)]
  exact ⟨rfl, inv_pullTo hs (bytesFor_lt hin)⟩

/-- A `DECODE_FRAME` that does not pass its checks ends with an error and keeps the invariant. -/
theorem decodeFrameBody_refused {s : State} (hs : Inv s) (hr : ¬ FrameReady s) :
    Ends decodeFrameBody (fun _ _ => False) (fun e t => e.isError = true ∧ Inv t) (startCommand s) := by
  have hstart := inv_startCommand hs
  have hdrop := inv_dropHeader hstart
  unfold decodeFrameBody decodeHeld
  simp only [ends_bind, ends_get, ends_set, ends_ite, ends_throw, ends_pure, cursorCheck_ends]
  by_cases hheld : (startCommand s).headerHeld = true
  · obtain ⟨hv, hcursor⟩ : s.hdr.valid = true ∧ s.br.pos = s.hdr.start + 32 := by
      simpa [State.headerHeld, startCommand] using hheld
    have hch := channels_of_held hs.held hv
    simp only [hheld, if_true]
    split_ifs with hin hlayer
    · exact ⟨rfl, hdrop⟩
    · rw [checkSession_ends]
      split_ifs with hses
      · have hopen := inv_openSession hdrop hch
        have hbody : ¬ s.bodyEnd ≤ 8 * s.src.bytes.length := fun hbody =>
          hr ⟨hv, hcursor, fun h => hlayer (by rw [show (startCommand s).frm = s.frm from rfl, h]; rfl), hses, hin, hbody⟩
        rw [openSession_eq] at hopen ⊢
        exact (fetchBody_short hopen hin hbody).mono (fun _ _ => False.elim) fun _ _ he => he
      · exact ⟨rfl, hdrop⟩
    · exact ⟨rfl, hstart⟩
  · simp only [hheld, if_false, Bool.false_eq_true, if_true]
    exact ⟨rfl, hdrop⟩

/-! ## Past its checks (R445, R446) -/

theorem inv_takeBody {s : State} (hs : Inv s) (hin : s.bodyEnd < 2 ^ 64) (hbody : s.bodyEnd ≤ 8 * s.src.bytes.length) :
    Inv (takeBody s) :=
  ((inv_pullTo hs (bytesFor_lt hin)).withFb (Nat.zero_le _)).withPos
    (bytesFor_le_iff.mp ((pullTo_covers hs.br hin).mpr hbody))

theorem Inv.withMade {s : State} (hs : Inv s) (hses : s.ses.init = true) {x : Slots} (hx : x.l3 = false → s.res = []) :
    Inv (s.withMade x) :=
  ⟨hs.br.congr rfl rfl, hs.held, hs.eq, ⟨fun h => absurd (hses.symm.trans h) nofun, hs.ses.on⟩, ⟨hs.res.len, hx⟩,
    hs.st.congr rfl, hs.sink.congr rfl rfl rfl, hs.vbr, hs.fb⟩

theorem Inv.emptyRes {s : State} (hs : Inv s) : Inv (s.withRes []) :=
  ⟨hs.br.congr rfl rfl, hs.held, hs.eq, hs.ses.congr rfl rfl, ⟨Nat.zero_le _, fun _ => rfl⟩, hs.st.congr rfl,
    hs.sink.congr rfl rfl rfl, hs.vbr, hs.fb⟩

/-- A slot is made in a session, the Layer III slot with an empty reservoir (R44, R446). -/
theorem inv_makeSlot {s : State} (hs : Inv s) (layer : Nat) (hses : s.ses.init = true) : Inv (makeSlot layer s) := by
  unfold makeSlot
  split
  · exact hs
  · dsimp only
    split
    · exact Inv.withMade (s := (s.withRes []).withOv resetValues.ov) (hs.emptyRes.of_frame rfl) hses fun _ => rfl
    · refine hs.withMade hses fun h => hs.res.slot ?_
      simp only [Slots.set, Bool.or_eq_false_iff] at h
      exact h.1

/-- A slot that is made stays as it is when it is made again. -/
theorem slots_set_get {m : Slots} {layer : Nat} (h : m.get layer = true) : m.set layer = m := by
  obtain ⟨l1, l2, l3⟩ := m
  simp only [Slots.get] at h
  simp only [Slots.set, Slots.mk.injEq]
  split_ifs at h <;> simp_all

/-- After `makeSlot` the slot of the layer is made. -/
theorem makeSlot_made (layer : Nat) (s : State) : (makeSlot layer s).made = s.made.set layer := by
  unfold makeSlot
  split
  · rename_i h
    exact (slots_set_get h).symm
  · rfl

theorem openSession_init (s : State) : (openSession s).ses.init = true := by
  unfold openSession
  split
  · assumption
  · rfl

section
variable {s : State}

/-- `openSession` of a session that agrees: the session of the frame (R443, R444). -/
theorem openSession_ses (h : s.sessionAgrees = true) :
    (openSession s).ses = { s.ses with init := true, channels := s.frm.channels, rate := s.frm.rate } := by
  unfold openSession
  cases hi : s.ses.init with
  | false => rfl
  | true =>
    simp only [State.sessionAgrees, hi, Bool.not_true, Bool.false_or, Bool.and_eq_true, beq_iff_eq] at h
    rw [if_pos rfl, h.1, h.2, ← hi]

theorem frameStart_made (s : State) : (frameStart s).made = s.made.set s.frm.layer.toNat := by
  unfold frameStart sinkClear
  rw [onSink_fields]
  simp only [State.withSinks_fields]
  refine (makeSlot_made _ _).trans ?_
  rw [takeBody_eq, openSession_eq]
  rfl

theorem frameStart_ses (h : s.sessionAgrees = true) :
    (frameStart s).ses = { s.ses with init := true, channels := s.frm.channels, rate := s.frm.rate } := by
  unfold frameStart sinkClear
  rw [onSink_fields, makeSlot_eq, takeBody_eq]
  exact openSession_ses (s := (startCommand s).withHdr { s.hdr with valid := false }) h

/-- The layer decoder starts in the invariant. -/
theorem inv_frameStart (hs : Inv s) (hr : FrameReady s) : Inv (frameStart s) := by
  have hdrop := inv_dropHeader (inv_startCommand hs)
  have hch := channels_of_held hs.held hr.valid
  have hopen := inv_openSession hdrop hch
  have hinit := openSession_init ((startCommand s).withHdr { s.hdr with valid := false })
  have hstream := openSession_eq ((startCommand s).withHdr { s.hdr with valid := false })
  have htake : Inv (takeBody (openSession ((startCommand s).withHdr { s.hdr with valid := false }))) :=
    inv_takeBody hopen (by rw [hstream]; exact hr.inside) (by rw [hstream]; exact hr.body)
  refine inv_onSink (inv_makeSlot htake _ ?_) _
  rw [takeBody_eq]
  exact hinit

theorem inv_forgetFb (hs : Inv s) : Inv (forgetFb s) :=
  Inv.of_frame (s := s.withFb _) (hs.withFb (by simpa using hs.fb)) rfl

/-- A layer decoder keeps the invariant when the slot of its layer is made. -/
theorem inv_finishLayer (hs : Inv s) {layer : Nat} (h : layer = 1 ∨ layer = 2 ∨ s.made.l3 = true) :
    Inv (finishLayer layer s) := by
  have hg := granular_finishLayer layer s
  obtain h1 | h2 | h3 := h
  · exact inv_granular_res hs hg (finishLayer_res (.inl h1) s)
  · exact inv_granular_res hs hg (finishLayer_res (.inr h2) s)
  · exact inv_granular hs hg fun h => absurd (hg.frame.made ▸ h) (by simp [h3])

theorem slot_made (layer : BitVec 2) (h : layer ≠ 0) (m : Slots) :
    layer.toNat = 1 ∨ layer.toNat = 2 ∨ (m.set layer.toNat).l3 = true := by
  have hcases : layer = 1 ∨ layer = 2 ∨ layer = 3 := by decide +revert
  obtain rfl | rfl | rfl := hcases
  · exact .inl rfl
  · exact .inr (.inl rfl)
  · exact .inr (.inr (by simp [Slots.set]))

/-- `DECODE_FRAME` keeps the invariant however it ends. -/
theorem safe_decodeFrameBody (hs : Inv s) : Safe decodeFrameBody (startCommand s) := by
  by_cases hr : FrameReady s
  · have hstart := inv_frameStart hs hr
    refine (decodeFrameBody_ends hs.br hr).mpr ((decodeLayer_ends _ _).mono (fun _ t ht => ?_) fun e t ht => ?_)
    · obtain ⟨u, hu, rfl⟩ := ht
      refine inv_forgetFb (inv_finishLayer (inv_parses hstart hu) ?_)
      rw [hu.1.made, frameStart_made]
      exact slot_made s.frm.layer hr.layer s.made
    · exact ⟨ht.1, inv_forgetFb (inv_parses hstart ht.2)⟩
  · exact (decodeFrameBody_refused hs hr).mono (fun _ _ => False.elim) fun _ _ he => he

end

end Sys2Proof.Machine
end

section
/-! PROOFS. The invariant of the machine holds at power-on and every step keeps it. -/

-- One theorem after another: threads that wait for each other exhaust the memory limit with their stacks.
set_option Elab.async false

namespace Sys2Proof.Machine

open Act

/-! ## Equalizer commands (R232, R236) -/

section
variable {s : State} (hs : Inv s)
include hs

theorem safe_eqSetbandBody (band : BitVec 8) (value : BitVec 32) : Safe (eqSetbandBody band value) s := by
  unfold Safe Ends
  rw [eqSetband_eq]
  by_cases h : 32 ≤ band.toNat ∨ Num.isNaN (bandValue s value) = true
  · rw [if_pos h]
    exact ⟨rfl, hs⟩
  · rw [if_neg h]
    exact hs.withEq (keepsEq_withEq hs.eq)

theorem inv_applyFactors (ch : Nat) : Inv (applyFactors ch s) := hs.of_frame rfl

theorem safe_eqApplyBody : Safe eqApplyBody s := by
  unfold Safe eqApplyBody
  simp only [ends_bind, ends_modify, ends_pure]
  exact inv_applyFactors (inv_eqBoundary (inv_applyFactors hs 0)) 1

/-! ## Output and parameters (R452, R456) -/

theorem safe_setOutputBody (sink : BitVec 32) : Safe (setOutputBody sink) s := by
  have hmax := s.cfg.nSinks.isLt
  unfold Safe setOutputBody
  simp only [ends_bind, ends_get, ends_ite, ends_throw, ends_modify, ends_pure]
  split_ifs with h
  · exact ⟨rfl, hs⟩
  · refine hs.withOutSink (.inr ?_)
    rw [BitVec.toNat_ofNat, Nat.mod_eq_of_lt (by omega)]
    omega

theorem safe_getParamBody (sel : BitVec 8) (idx : BitVec 32) : Safe (getParamBody sel idx) s := by
  unfold Safe getParamBody
  simp only [ends_bind, ends_get, ends_ite, ends_throw, ends_pure]
  split_ifs
  · exact ⟨rfl, hs⟩
  · exact hs

/-! ## Resets (R521 to R523) -/

/-- `RESTART` keeps the session and the slots, and empties what depends on the stream. -/
theorem inv_restartState : Inv (restartState s) :=
  ⟨⟨Nat.zero_le _, Nat.zero_le _, nofun⟩, nofun, hs.eq, ⟨hs.ses.off, hs.ses.on⟩, ⟨Nat.zero_le _, fun _ => rfl⟩,
    hs.st.congr rfl, hs.sink.congr rfl rfl rfl, nofun, Nat.zero_le _⟩

theorem inv_reinitState : Inv (reinitState s) :=
  have hr := inv_restartState hs
  ⟨hr.br.congr rfl rfl, nofun, hr.eq, ⟨fun _ => ⟨rfl, rfl, rfl⟩, nofun⟩, ⟨Nat.zero_le _, fun _ => rfl⟩,
    hr.st.congr rfl, hr.sink.congr rfl rfl rfl, nofun, Nat.zero_le _⟩

end

/-- The equalizer values of a reset are 0.0, which is in range. -/
theorem eqInv_reset {s : State} (h : s.eq = resetValues.eq) : EqInv s := by
  intro i hi
  have hzero : rd s.eq i = Num.zero := by rw [h]; exact rd_replicate _ i hi
  rw [hzero]
  decide

theorem stInv_reset {s : State} (h : s.st = resetValues.st) : StInv s := by
  constructor <;> rw [h] <;> decide

section
variable {s : State} (hs : Inv s)
include hs

theorem inv_resetState : Inv (resetState s) :=
  have hr := inv_reinitState hs
  ⟨hr.br.congr rfl rfl, nofun, eqInv_reset rfl, ⟨fun _ => ⟨rfl, rfl, rfl⟩, nofun⟩, ⟨Nat.zero_le _, fun _ => rfl⟩,
    stInv_reset rfl, ⟨.inl rfl, hr.sink.null⟩, nofun, Nat.zero_le _⟩

/-- The host positions the byte source (R104). -/
theorem inv_present (bytes : List Byte) : Inv (present bytes s) := by
  unfold present
  split_ifs with h
  · refine hs.withSrc ⟨hs.br.pos, ?_, fun he => ?_⟩
    · simp [h.1]
    · simp [h.2] at he
  · exact hs.withSrc ⟨hs.br.pos, hs.br.pulled, hs.br.eod⟩

/-! ## Pseudo-instructions (R161) -/

theorem inv_thenCommand {body : Act (BitVec 32)} (hb : ∀ t, Inv t → Inv (runCommand body t)) :
    Inv (thenCommand body s) := hb _ (inv_eqBoundary hs)

theorem inv_setBand (band : BitVec 8) (value : BitVec 32) : Inv (runCommand (eqSetbandBody band value) s) :=
  inv_runCommand (safe_eqSetbandBody (inv_startCommand hs) band value)

theorem inv_setBands (values : Vector (BitVec 32) 32) : Inv (setBands values s) :=
  loop_induct (P := fun _ t => Inv t) (inv_setBand hs _ _) fun _ _ _ ht =>
    inv_thenCommand ht fun _ hu => inv_setBand hu _ _

theorem inv_sync : Inv (runCommand syncBody s) := inv_runCommand (safe_syncBody (inv_startCommand hs))

theorem inv_parseHeader : Inv (runCommand parseHeaderBody s) :=
  inv_runCommand (safe_parseHeaderBody (inv_startCommand hs))

theorem inv_decodeFrame : Inv (runCommand decodeFrameBody s) := inv_runCommand (safe_decodeFrameBody hs)

theorem inv_eqApply : Inv (runCommand eqApplyBody s) := inv_runCommand (safe_eqApplyBody (inv_startCommand hs))

omit hs in
theorem inv_nextHeaderLoop (fuel : Nat) {s : State} (hs : Inv s) : Inv (nextHeaderLoop fuel s) := by
  induction fuel generalizing s with
  | zero => exact hs
  | succ n ih =>
    have hsync := inv_sync hs
    have hparse := inv_thenCommand hsync fun _ => inv_parseHeader
    unfold nextHeaderLoop
    dsimp only
    split_ifs
    · exact hsync
    · exact hparse
    · exact ih (inv_eqBoundary hparse)

theorem inv_decodeNext : Inv (decodeNext s) := by
  have hnext : Inv (nextHeader s) := inv_nextHeaderLoop _ hs
  unfold decodeNext
  dsimp only
  split_ifs
  · exact inv_thenCommand hnext fun _ => inv_decodeFrame
  · exact hnext

/-! ## Level 3 selectors (R323, R362, R368) -/

theorem inv_pairStep (t : Nat) : Inv (pairStep t s) :=
  inv_granular_res hs (granular_pairStep t s) (res_of_apart (apart_pairStep t s))

theorem inv_quadStep (sel : BitVec 1) : Inv (quadStep sel s) :=
  inv_granular_res hs (granular_quadStep sel s) (res_of_apart (apart_quadStep sel s))

theorem inv_hybrid (kind : BlockKind) (ch : Nat) : Inv (hybrid kind ch s) :=
  inv_granular_res hs (granular_hybrid kind ch s) (res_of_apart (apart_hybrid kind ch s))

theorem inv_reservedSelector : Inv (reservedSelector s) :=
  inv_granular_res hs (granular_reservedSelector s) (res_of_apart (apart_reservedSelector s))

/-! ## Instructions and steps -/

omit hs in
/-- The rows of a header word (R133, R136). -/
def isHeaderRow : Instr → Bool
  | .frameL1 _ | .frameL2 _ | .frameL3 _ | .hdrNoSync _ | .hdrRsvVersion _ | .hdrRsvLayer _ | .hdrRsvBitrate _
  | .hdrRsvRate _ | .hdrFreeFormat _ => true
  | _ => false

/-- Every instruction but a header row answers with a state of the invariant. -/
theorem inv_exec (i : Instr) (hi : isHeaderRow i = false) : ∃ t, exec i s = .next t ∧ Inv t := by
  have hstart := inv_startCommand hs
  cases i
  case reset => exact ⟨_, rfl, inv_runCommand (safe_modify (inv_resetState hstart))⟩
  case reinit => exact ⟨_, rfl, inv_runCommand (safe_modify (inv_reinitState hstart))⟩
  case restart => exact ⟨_, rfl, inv_runCommand (safe_modify (inv_restartState hstart))⟩
  case readbits n => exact ⟨_, rfl, inv_runCommand (safe_readbitsBody hstart _)⟩
  case sync => exact ⟨_, rfl, inv_sync hs⟩
  case parseHeader => exact ⟨_, rfl, inv_parseHeader hs⟩
  case decodeFrame => exact ⟨_, rfl, inv_decodeFrame hs⟩
  case eqSetband band value => exact ⟨_, rfl, inv_setBand hs band value⟩
  case eqApply => exact ⟨_, rfl, inv_eqApply hs⟩
  case setOutput sink => exact ⟨_, rfl, inv_runCommand (safe_setOutputBody hstart sink)⟩
  case getParam sel idx => exact ⟨_, rfl, inv_runCommand (safe_getParamBody hstart sel idx)⟩
  case illegalCmd w => exact ⟨_, rfl, inv_runCommand (safe_throw hstart rfl)⟩
  case readbit => exact ⟨_, rfl, inv_runCommand (safe_readbitsBody hstart 1)⟩
  case nextHeader => exact ⟨_, rfl, inv_nextHeaderLoop _ hs⟩
  case setEqualizer values => exact ⟨_, rfl, inv_thenCommand (inv_setBands hs values) fun _ => inv_eqApply⟩
  case decodeNext => exact ⟨_, rfl, inv_decodeNext hs⟩
  case frameL1 | frameL2 | frameL3 | hdrNoSync | hdrRsvVersion | hdrRsvLayer | hdrRsvBitrate | hdrRsvRate
      | hdrFreeFormat => exact nomatch hi
  case blkNormal | blkStart | blkShort | blkMixed | blkStop => exact ⟨_, rfl, inv_hybrid hs _ _⟩
  case blkReserved | tsel4 | tsel14 => exact ⟨_, rfl, inv_reservedSelector hs⟩
  case count1A | count1B => exact ⟨_, rfl, inv_quadStep hs _⟩
  all_goals exact ⟨_, rfl, inv_pairStep hs _⟩

/-- A frame row accepts its header and decodes the frame. -/
theorem inv_frameRow {h : HeaderFields} (hc : headerClass s.cfg.syncBits h ∈ [.layer1, .layer2, .layer3]) :
    ∃ t, exec .decodeFrame (acceptHeader h (s.br.pos - 32) s) = .next t ∧ Inv t :=
  inv_exec (inv_acceptHeader hs hc) .decodeFrame rfl

/-- The row of a header word that was just fetched answers with a state of the invariant. -/
theorem inv_headerRow (h : HeaderFields) (hpos : 32 ≤ s.br.pos.toNat) :
    ∃ t, exec (headerRow (headerClass s.cfg.syncBits h) h) s = .next t ∧ Inv t := by
  have hstart := inv_startCommand hs
  cases hc : headerClass s.cfg.syncBits h
  case layer1 => rw [headerRow, exec_frameL1 hc]; exact inv_frameRow hs (by simp [hc])
  case layer2 => rw [headerRow, exec_frameL2 hc]; exact inv_frameRow hs (by simp [hc])
  case layer3 => rw [headerRow, exec_frameL3 hc]; exact inv_frameRow hs (by simp [hc])
  all_goals exact ⟨_, rfl, inv_runCommand (safe_refuseFetched hstart rfl hpos)⟩

/-- The frame at the cursor: its fetch moves the cursor 32 bits on. -/
theorem inv_stepFrame : ∃ t, stepFrame s = .next t ∧ Inv t := by
  have hstart := inv_startCommand hs
  have hfetch : Ends fetchFrameWord (fun _ t => Inv t ∧ 32 ≤ t.br.pos.toNat) (fun e t => e.isError = true ∧ Inv t)
      (startCommand s) := by
    unfold fetchFrameWord
    simp only [ends_bind, ends_get, cursorCheck_ends, ends_modify]
    split_ifs with hp
    · exact (inv_fetchHeader (inv_dropHeader hstart) hp).mono
        (fun _ t ht => ⟨ht.1, ht.2 ▸ Nat.le_add_left ..⟩) fun _ _ he => he
    · exact ⟨rfl, hstart⟩
  cases hf : fetchFrameWord (startCommand s) with
  | ok w t =>
    obtain ⟨ht, hpos⟩ := hfetch.of_ok hf
    rw [stepFrame_of_fetched hf]
    exact inv_headerRow ht (splitHeader w) hpos
  | error e t =>
    obtain ⟨he, ht⟩ := hfetch.of_error hf
    rw [stepFrame_of_error hf]
    exact ⟨_, rfl, inv_endCommand ht (.inr he) 0⟩

omit hs in
theorem isHeaderRow_decodeCommand (w : CmdWord) : isHeaderRow (decodeCommand w) = false := by
  simp only [decodeCommand, apply_ite isHeaderRow]
  simp only [isHeaderRow, ite_self]

omit hs in
theorem isHeaderRow_decodeSelector (x : Selector) : isHeaderRow (decodeSelector x) = false := by
  have htable : ∀ t : BitVec 5, isHeaderRow (tselRows.getD t.toNat .tsel0) = false := by decide
  cases x with
  | tableSelect t => exact htable t
  | count1Select b => simp only [decodeSelector]; split_ifs <;> rfl
  | longBlock => rfl
  | windowSwitched bt m => simp only [decodeSelector]; split_ifs <;> rfl

theorem inv_perform (op : HostOp) : ∃ t, perform op s = .next t ∧ Inv t := by
  cases op with
  | command w => exact inv_exec hs _ (isHeaderRow_decodeCommand w)
  | pseudo p => exact inv_exec hs _ (by cases p <;> rfl)
  | selector x => exact inv_exec hs _ (isHeaderRow_decodeSelector x)
  | frame => exact inv_stepFrame hs
  | present bytes => exact ⟨_, rfl, inv_present hs bytes⟩
  | resetInput => exact ⟨_, rfl, inv_resetState hs⟩

/-- A step answers with a state of the invariant. -/
theorem inv_step : ∃ t, step s = .next t ∧ Inv t := by
  have hb := inv_eqBoundary hs
  unfold step
  dsimp only
  cases (eqBoundary s).cp.ops with
  | nil => exact ⟨_, rfl, hb⟩
  | cons op rest => exact inv_perform (hb.of_frame rfl) op

end

/-- Settles O7: every request answers with a state of the invariant. -/
theorem stepKeepsInvariant : Obligations.StepKeepsInvariant := by
  unfold Obligations.StepKeepsInvariant
  intro s t hs hstep
  obtain ⟨u, hu, hinv⟩ := inv_step hs
  rw [hu] at hstep
  rwa [← Host.Outcome.next.inj hstep]

/-! ## Power-on (R47, R526) -/

/-- The machine at power-on meets the invariant with every configuration. -/
theorem inv_reset (c : Config) : Inv { State.reset with cfg := c } :=
  ⟨⟨Nat.le_refl _, Nat.le_refl _, nofun⟩, nofun, eqInv_reset rfl, ⟨fun _ => ⟨rfl, rfl, rfl⟩, nofun⟩,
    ⟨Nat.zero_le _, fun _ => rfl⟩, stInv_reset rfl, ⟨.inl rfl, rd_replicate _ 0 (by decide)⟩, nofun, Nat.le_refl _⟩

/-- A filter at power-on: coefficients 1.0, history 0.0. -/
theorem reset_filter {ch : Nat} (hch : ch < 2) : rd State.reset.sf ch = resetValues.filter := rd_replicate _ ch hch

/-- The overlap at power-on is 0.0. -/
theorem reset_overlap {ch sb i : Nat} (hch : ch < 2) (hsb : sb < 32) (hi : i < 18) :
    rd (rd (rd State.reset.ov ch) sb) i = Machine.Num.zero := by
  have hov : State.reset.ov = Vector.replicate 2 (Vector.replicate 32 (Vector.replicate 18 Machine.Num.zero)) := rfl
  rw [hov, rd_replicate _ ch hch, rd_replicate _ sb hsb, rd_replicate _ i hi]

/-- Settles O8: the registers of R47 are those of `State.reset`. -/
theorem invariantHoldsAtReset : Obligations.InvariantHoldsAtReset := by
  unfold Obligations.InvariantHoldsAtReset
  refine ⟨inv_reset, rfl, rfl, rfl, rfl, rfl, rfl, rfl, rfl, rfl, fun i hi => rd_replicate _ i hi, fun ch hch => ?_⟩
  rw [reset_filter hch]
  exact ⟨fun i hi => rd_replicate _ i hi, fun i hi => rd_replicate _ i hi, fun _ hsb _ hi => reset_overlap hch hsb hi⟩

end Sys2Proof.Machine
end

section
/-! PROOFS. What a `DECODE_FRAME` that ends with `OK` leaves: its samples in the bound sink, the cursor at the end of the
frame, and everything else as it was (R443, R448 to R450). -/

-- One theorem after another: threads that wait for each other exhaust the memory limit with their stacks.
set_option Elab.async false

namespace Sys2Proof.Machine

open Act

/-! ## The length and the samples of an accepted frame (R206, R207, R209, R212) -/

theorem kbps_bounds {i : BitVec 4} (h0 : i ≠ 0) (h15 : i ≠ 15) (version layer : Nat) :
    8 ≤ (bitrateColumn version layer).getD i.toNat 0 ∧ (bitrateColumn version layer).getD i.toNat 0 ≤ 448 := by
  unfold bitrateColumn
  split_ifs
  all_goals decide +revert

/-- A frame has more than its header word, and its length fits `FRM.len` (R213). -/
theorem headerLen_bounds {sb : SyncBits} {h : HeaderFields} (halve : Bool)
    (hc : headerClass sb h ∈ [.layer1, .layer2, .layer3]) : 4 ≤ headerLen halve h ∧ headerLen halve h < 2 ^ 16 := by
  obtain ⟨-, h15, h3, h0, -⟩ := headerClass_accepted hc
  have hpad : h.padding.toNat < 2 := h.padding.isLt
  obtain ⟨hb, hb'⟩ := kbps_bounds h0 h15 (headerVersion h) (headerLayer h)
  obtain ⟨hr, hr'⟩ := rate_bounds h3 (headerVersion h)
  have hr48 : (ratesHz (headerVersion h)).getD h.rateIndex.toNat 0 ≤ 48000 := hr'.trans (by split <;> decide)
  have hK : lengthConstant halve h = 72 ∨ lengthConstant halve h = 144 := by unfold lengthConstant; split <;> simp
  simp only [headerLen, headerBitrate, headerRate]
  generalize (ratesHz (headerVersion h)).getD h.rateIndex.toNat 0 = r at hr hr48 ⊢
  generalize (bitrateColumn (headerVersion h) (headerLayer h)).getD h.bitrateIndex.toNat 0 = b at hb hb' ⊢
  split_ifs
  · have hlo : 2 ≤ 12 * (1000 * b) / r := (Nat.le_div_iff_mul_le (by omega)).mpr (by omega)
    have hhi : 12 * (1000 * b) / r < 1000 := (Nat.div_lt_iff_lt_mul (by omega)).mpr (by omega)
    omega
  · have hlo : 4 ≤ lengthConstant halve h * (1000 * b) / r :=
      (Nat.le_div_iff_mul_le (by omega)).mpr (by obtain hk | hk := hK <;> rw [hk] <;> omega)
    have hhi : lengthConstant halve h * (1000 * b) / r < 2 ^ 15 :=
      (Nat.div_lt_iff_lt_mul (by omega)).mpr (by obtain hk | hk := hK <;> rw [hk] <;> omega)
    omega

/-- `FRM.spf` is what the layer emits (R209). -/
theorem headerFrm_samples (halve : Bool) (h : HeaderFields) (vbr : Bool) :
    (headerFrm halve h vbr).spf.toNat =
      layerSamples (headerFrm halve h vbr).layer.toNat (if (headerFrm halve h vbr).version = 1 then 2 else 1) := by
  have hlayer : (headerFrm halve h vbr).layer.toNat = headerLayer h := by
    simp only [headerFrm, headerLayer]
    split_ifs <;> rfl
  have hspf : (headerFrm halve h vbr).spf.toNat = headerSpf h := by
    simp only [headerFrm, headerSpf]
    split_ifs <;> rfl
  rw [hlayer, hspf]
  simp only [headerFrm_version, headerSpf, layerSamples]
  split_ifs <;> rfl

section
variable {s t : State}

theorem held_len (hh : HeldInv s) (hv : s.hdr.valid = true) : 4 ≤ s.frm.len.toNat := by
  obtain ⟨hc, hfrm⟩ := hh hv
  obtain ⟨hlo, hhi⟩ := headerLen_bounds s.cfg.lsfHalveL2 hc
  rw [hfrm]
  simp only [headerFrm, BitVec.toNat_ofNat]
  omega

theorem held_samples (hh : HeldInv s) (hv : s.hdr.valid = true) :
    s.frm.spf.toNat = layerSamples s.frm.layer.toNat s.ngr := by
  have hfrm := (hh hv).2
  unfold State.ngr
  rw [hfrm]
  exact headerFrm_samples ..

/-! ## Where the layer decoder starts (R441) -/

/-- The cursor stands after the body (R445). -/
theorem frameStart_pos (s : State) : (frameStart s).br.pos = BitVec.ofNat 64 s.bodyEnd := by
  unfold frameStart sinkClear
  rw [onSink_fields, makeSlot_eq]
  unfold takeBody
  rw [openSession_eq]
  rfl

/-- The bound sink is cleared and no other touched (R97, R448). -/
theorem frameStart_sinks {k : Nat} (hk : k < 256) :
    rd (frameStart s).sinks k =
      if s.outSink ≠ 0 ∧ k = s.outSink.toNat then { data := Vector.replicate 2 [] } else rd s.sinks k := by
  unfold frameStart sinkClear
  rw [rd_onSink _ _ _ hk, makeSlot_eq, takeBody_eq, openSession_eq]
  rfl

theorem frameStart_outSink (s : State) : (frameStart s).outSink = s.outSink := by rw [frameStart_eq]

theorem frameStart_sampleCount (ho : s.outSink ≠ 0) {ch : Nat} (hch : ch < 2) : (frameStart s).sampleCount ch = 0 := by
  unfold State.sampleCount
  rw [frameStart_outSink, frameStart_sinks s.outSink.isLt, if_pos ⟨ho, rfl⟩, rd_replicate _ _ hch]
  rfl

end

/-! ## A frame that ends with OK -/

/-- A `DECODE_FRAME` that ends with `OK` has passed its checks, and its layer decoder has ended without an error. -/
theorem decodeFrame_ok_cases {s t : State} (hs : Inv s) (h : exec .decodeFrame s = .next t) (hcode : t.st.code = 0) :
    FrameReady s ∧ ∃ u, Parses (frameStart s) u ∧
      t = endCommand .ok (s.frm.spf.setWidth 32) (forgetFb (finishLayer s.frm.layer.toNat u)) := by
  have herror {e : Code} {v : BitVec 32} {u : State} (he : e.isError = true) : t ≠ endCommand e v u := by
    rintro rfl
    exact e.toByte_ne_zero he hcode
  by_cases hr : FrameReady s
  · refine ⟨hr, ?_⟩
    have hends := decodeLayer_ends s.frm.layer.toNat (frameStart s)
    cases hd : decodeLayer s.frm.layer.toNat (frameStart s) with
    | ok v w =>
      obtain ⟨u, hu, rfl⟩ := hends.of_ok hd
      rw [exec_decodeFrame_of_ok hs.br hr hd] at h
      exact ⟨u, hu, (Host.Outcome.next.inj h).symm⟩
    | error e w =>
      obtain ⟨he, -⟩ := hends.of_error hd
      rw [exec_decodeFrame_of_error hs.br hr hd] at h
      exact absurd (Host.Outcome.next.inj h).symm (herror he)
  · obtain ⟨_, _, hfalse, -⟩ | ⟨e, u, ⟨he, -⟩, hrun⟩ := runCommand_of_ends (decodeFrameBody_refused hs hr)
    · exact hfalse.elim
    · rw [exec_decodeFrame, hrun] at h
      exact absurd (Host.Outcome.next.inj h).symm (herror he)

/-- What a finished frame leaves of the registers beside the data path: those of `frameStart`. -/
theorem finishedFrame_eq {s u t : State} {e : Code} {v : BitVec 32} {layer : Nat} (hu : Parses (frameStart s) u)
    (ht : t = endCommand e v (forgetFb (finishLayer layer u))) :
    t.br = (frameStart s).br ∧ t.hdr = { s.hdr with valid := false } ∧ t.ses = (frameStart s).ses ∧
      t.made = (frameStart s).made ∧ t.frm = s.frm ∧ t.outSink = s.outSink ∧ t.src = s.src ∧ t.cfg = s.cfg := by
  have hp := hu.1
  have hf := (granular_finishLayer layer u).frame
  have hstart := frameStart_eq s
  generalize frameStart s = f at hp hstart ⊢
  generalize finishLayer layer u = w at hf ht
  subst ht
  simp only [endCommand_forgetFb_fields]
  refine ⟨hf.br.trans hp.br, hf.hdr.trans (hp.hdr.trans ?_), hf.ses.trans hp.ses, hf.made.trans hp.made,
    hf.frm.trans (hp.frm.trans ?_), hf.outSink.trans (hp.outSink.trans ?_), hf.src.trans (hp.src.trans ?_),
    hf.cfg.trans (hp.cfg.trans ?_)⟩ <;> rw [hstart]

/-- Samples that a finished frame has put into the sinks: those of its layer in each of its channels (R448, R449). -/
theorem finishedFrame_sinks {s u t : State} {e : Code} {v : BitVec 32} (hu : Parses (frameStart s) u)
    (ht : t = endCommand e v (forgetFb (finishLayer s.frm.layer.toNat u))) :
    (s.outSink ≠ 0 → ∀ ch < 2,
      t.sampleCount ch = if ch < s.nch then layerSamples s.frm.layer.toNat s.ngr else 0) ∧
    ∀ k < 256, k ≠ s.outSink.toNat → rd t.sinks k = rd s.sinks k := by
  have hp := hu.1
  have hfrm : u.frm = s.frm := hp.frm.trans (by rw [frameStart_eq])
  have hem := (emits_nothing hp.outSink hp.sinks).trans (emits_finishLayer s.frm.layer.toNat u)
  rw [nch_of_frm hfrm, ngr_of_frm hfrm] at hem
  generalize finishLayer s.frm.layer.toNat u = w at hem ht
  have hsinks : t.sinks = w.sinks := by rw [ht]; simp only [endCommand_forgetFb_fields]
  have hout : t.outSink = w.outSink := by rw [ht]; simp only [endCommand_forgetFb_fields]
  refine ⟨fun ho ch hch => ?_, fun k hk hne => ?_⟩
  · rw [State.sampleCount, hsinks, hout]
    refine (hem.count (by rwa [frameStart_outSink]) ch hch).trans ?_
    rw [frameStart_sampleCount ho hch, Nat.zero_add, Nat.zero_add]
  · rw [hsinks, hem.others k hk (by rwa [frameStart_outSink]), frameStart_sinks hk, if_neg fun h => hne h.2]

/-- The size that the host reads is two bytes for each sample of the two channels (R36, R95). -/
theorem sinkSize_eq (s : State) : s.sinkSize s.outSink.toNat = 2 * (s.sampleCount 0 + s.sampleCount 1) := rfl

/-- A state that differs in none of four registers. -/
theorem State.eq_of_kept {s t : State} (hfrm : t.frm = s.frm) (hout : t.outSink = s.outSink) (hsrc : t.src = s.src)
    (hcfg : t.cfg = s.cfg) : t = { s with
      br := t.br, hdr := t.hdr, ses := t.ses, eq := t.eq, sf := t.sf, st := t.st, fb := t.fb, res := t.res,
      ov := t.ov, made := t.made, tr := t.tr, seq := t.seq, sinks := t.sinks, cp := t.cp, ep := t.ep,
      freeCtr := t.freeCtr } := by
  rw [← hfrm, ← hout, ← hsrc, ← hcfg]

/-- The end of the body is the end of the frame (R212, R445). -/
theorem bodyEnd_eq {s : State} (hr : FrameReady s) (hlen : 4 ≤ s.frm.len.toNat) :
    BitVec.ofNat 64 s.bodyEnd = s.hdr.start + 8 * s.frm.len.setWidth 64 := by
  have hlen' : s.frm.len.toNat < 2 ^ 16 := s.frm.len.isLt
  unfold State.bodyEnd State.bodyLen
  rw [hr.cursor]
  bv_omega

/-- Settles O22: a frame that ends with `OK` is a finished one of its layer. -/
theorem decodeFrameWritesItsSamples : Obligations.DecodeFrameWritesItsSamples := by
  unfold Obligations.DecodeFrameWritesItsSamples
  intro s t hs h hcode
  have hinv : Inv t := by
    obtain ⟨u, hu, hinv⟩ := inv_exec hs .decodeFrame rfl
    rw [hu] at h
    exact Host.Outcome.next.inj h ▸ hinv
  obtain ⟨hr, u, hu, ht⟩ := decodeFrame_ok_cases hs h hcode
  obtain ⟨hbr, hhdr, hses, hmade, hfrm, hout, hsrc, hcfg⟩ := finishedFrame_eq hu ht
  obtain ⟨hcount, hothers⟩ := finishedFrame_sinks hu ht
  rw [frameStart_ses hr.session] at hses
  rw [frameStart_made] at hmade
  have hch := channels_of_held hs.held hr.valid
  have hsamples : ∀ ch < 2, s.outSink ≠ 0 →
      t.sampleCount ch = if ch < s.frm.channels.toNat then s.frm.spf.toNat else 0 := fun ch hc ho => by
    rw [hcount ho ch hc, held_samples hs.held hr.valid]; rfl
  refine ⟨by rw [ht]; rfl, fun ho ch hc => ?_, fun ho => ?_, ?_, ?_, ?_, hhdr, hses, hmade,
    State.eq_of_kept hfrm hout hsrc hcfg⟩
  · rw [hout] at ho
    rw [hses]
    exact hsamples ch hc ho
  · rw [hout] at ho
    rw [sinkSize_eq, hsamples 0 (by decide) ho, hsamples 1 (by decide) ho, hses]
    obtain hc | hc := hch <;> rw [hc] <;> simp
    omega
  · unfold State.sinkSize
    rw [hinv.sink.null]
    rfl
  · rw [hout]
    exact hothers
  · rw [hbr, frameStart_pos, bodyEnd_eq hr (held_len hs.held hr.valid)]

end Sys2Proof.Machine
end

section
/-! PROOFS. Commands that write few registers: `READBITS`, the illegal words, `SET_OUTPUT` and `GET_PARAM`. -/

-- One theorem after another: threads that wait for each other exhaust the memory limit with their stacks.
set_option Elab.async false

namespace Sys2Proof.Machine

open Act

/-! ## How a command ends (R37, R124, R473) -/

section
variable {s t : State} {body : Act (BitVec 32)} {e : Code} {v : BitVec 32}

/-- The latched result and the result word of a command that met no warning. -/
theorem ended_endCommand (hfirst : t.st.first = 0) (hgerr : t.st.gerr = s.st.gerr) (hcp : t.cp = s.cp) :
    Ended e v s (endCommand e v t) := by
  constructor
  · simp [endCommand, latchResult, hfirst, hgerr]
  · simp [endCommand, latchResult, hfirst, hcp]

theorem runCommand_of_returns
    (h : Ends body (fun x u => x = v ∧ u = t) (fun _ _ => False) (startCommand s)) :
    runCommand body s = endCommand .ok v t := by
  obtain ⟨_, _, ⟨rfl, rfl⟩, hrun⟩ | ⟨_, _, hfalse, -⟩ := runCommand_of_ends h
  · exact hrun
  · exact hfalse.elim

theorem runCommand_of_raises
    (h : Ends body (fun _ _ => False) (fun c u => c = e ∧ u = t) (startCommand s)) :
    runCommand body s = endCommand e 0 t := by
  obtain ⟨_, _, hfalse, -⟩ | ⟨_, _, ⟨rfl, rfl⟩, hrun⟩ := runCommand_of_ends h
  · exact hfalse.elim
  · exact hrun

/-- The command `i` ends with `e` and the value `v`, and changes nothing but `ST` and the result words. -/
def OnlyEnds (i : Instr) (e : Code) (v : BitVec 32) (s : State) : Prop :=
  ∃ t, exec i s = .next t ∧ Ended e v s t ∧ t = { s with st := t.st, cp := t.cp }

/-- A command that raises before it writes. -/
theorem onlyEnds_of_raises {i : Instr} (hexec : exec i s = .next (runCommand body s))
    (h : Ends body (fun _ _ => False) (fun c u => c = e ∧ u = startCommand s) (startCommand s)) :
    OnlyEnds i e 0 s := by
  refine ⟨_, hexec, ?_, ?_⟩ <;> rw [runCommand_of_raises h]
  · exact ended_endCommand rfl rfl rfl
  · rfl

/-- A command that returns without having written. -/
theorem onlyEnds_of_returns {i : Instr} (hexec : exec i s = .next (runCommand body s))
    (h : Ends body (fun x u => x = v ∧ u = startCommand s) (fun _ _ => False) (startCommand s)) :
    OnlyEnds i .ok v s := by
  refine ⟨_, hexec, ?_, ?_⟩ <;> rw [runCommand_of_returns h]
  · exact ended_endCommand rfl rfl rfl
  · rfl

end

/-! ## READBITS (R181) -/

/-- A pull goes at most `BR_PREFETCH` bytes beyond need, and never beyond the source (R84). -/
theorem pullTo_pulled_le (need : Nat) (s : State) :
    (pullTo need s).br.pulled.toNat ≤
      max s.br.pulled.toNat (min (need + s.cfg.brPrefetch) s.src.bytes.length) := by
  by_cases h : s.br.eod = true ∨ need ≤ s.br.pulled.toNat
  · rw [pullTo_same h]
    exact Nat.le_max_left ..
  · rw [pullTo_br h, BitVec.toNat_ofNat]
    have hmod := Nat.mod_le (min (wanted need s) s.src.bytes.length) (2 ^ 64)
    have hprefetch : prefetch s ≤ s.cfg.brPrefetch := Nat.min_le_left ..
    unfold wanted at hmod ⊢
    omega

/-- When the needed bytes are not all there, everything is pulled and the end is noted (R23, R181). -/
theorem pullTo_exhausts {p : Nat} {s : State} (hi : BrInv s) (hp : p < 2 ^ 64) (h : 8 * s.src.bytes.length < p) :
    (pullTo (bytesFor p) s).br.eod = true ∧ (pullTo (bytesFor p) s).br.pulled.toNat = s.src.bytes.length := by
  obtain ⟨-, -, hcovers | hend⟩ := pullTo_inv hi (bytesFor_lt hp)
  · exact absurd ((pullTo_covers hi hp).mp hcovers) (by omega)
  · exact hend

/-- A legal number of bits at a cursor that stays in the bit address space is one `ReadBits`. -/
theorem readbitsBody_ends {n : Nat} {s : State} {Q : BitVec 32 → State → Prop} {E : Code → State → Prop} (h1 : 1 ≤ n)
    (h32 : n ≤ 32) (hp : s.br.pos.toNat + n < 2 ^ 64) :
    Ends (readbitsBody n) Q E s ↔ Ends (readBits n) (fun v t => Q (BitVec.ofNat 32 v) t) E s := by
  unfold readbitsBody
  simp only [ends_bind, ends_get, cursorCheck_ends, ends_pure, h1, h32, and_self, if_true, hp]

theorem exec_readbits (n : BitVec 8) (s : State) :
    exec (.readbits n) s = .next (runCommand (readbitsBody n.toNat) s) := rfl

section
variable {n : Nat} {s : State} (hi : BrInv s) (h1 : 1 ≤ n) (h32 : n ≤ 32) (hp : s.br.pos.toNat + n < 2 ^ 64)
include hi h1 h32 hp

theorem runCommand_readbits_ok (hn : s.br.pos.toNat + n ≤ 8 * s.src.bytes.length) :
    runCommand (readbitsBody n) s =
      endCommand .ok (BitVec.ofNat 32 (bitsAt s.src.bytes s.br.pos.toNat n))
        ((pullTo (bytesFor (s.br.pos.toNat + n)) (startCommand s)).withPos (s.br.pos.toNat + n)) := by
  have hcover := (pullTo_covers (s := startCommand s) (hi.congr rfl rfl) hp).mpr hn
  refine runCommand_of_returns ((readbitsBody_ends (s := startCommand s) h1 h32 hp).mpr ?_)
  unfold Ends
  rw [readBits_eq, show (startCommand s).br.pos = s.br.pos from rfl, if_neg (Nat.not_lt.mpr hcover)]
  exact ⟨rfl, rfl⟩

theorem runCommand_readbits_exhausted (hn : 8 * s.src.bytes.length < s.br.pos.toNat + n) :
    runCommand (readbitsBody n) s =
      endCommand .streamExhausted 0 (pullTo (bytesFor (s.br.pos.toNat + n)) (startCommand s)) := by
  refine runCommand_of_raises ((readbitsBody_ends (s := startCommand s) h1 h32 hp).mpr ?_)
  unfold Ends
  rw [readBits_exhausted (s := startCommand s) (hi.congr rfl rfl) hp hn]
  exact ⟨rfl, rfl⟩

end

/-- Settles O9: with the bits in the stream the read delivers them, else it pulls everything. -/
theorem readbitsReturnsTheNextBits : Obligations.ReadbitsReturnsTheNextBits := by
  unfold Obligations.ReadbitsReturnsTheNextBits
  refine ⟨fun n s hi h1 h32 hp hn => ?_, fun n s hi h1 h32 hp hn => ?_⟩
  · have hstart : BrInv (startCommand s) := hi.congr rfl rfl
    have hcover := (pullTo_covers hstart hp).mpr hn
    have hbound := pullTo_pulled_le (bytesFor (s.br.pos.toNat + n.toNat)) (startCommand s)
    have heq := pullTo_eq (bytesFor (s.br.pos.toNat + n.toNat)) (startCommand s)
    rw [exec_readbits, runCommand_readbits_ok hi h1 h32 hp hn]
    refine ⟨_, rfl, ?_, Nat.mod_eq_of_lt hp, hcover, hbound, ?_⟩
    · rw [heq]; exact ended_endCommand rfl rfl rfl
    · rw [heq]; rfl
  · have hstart : BrInv (startCommand s) := hi.congr rfl rfl
    obtain ⟨heod, hpulled⟩ := pullTo_exhausts hstart hp hn
    have hpos := (pullTo_frame (bytesFor (s.br.pos.toNat + n.toNat)) (startCommand s)).pos
    have heq := pullTo_eq (bytesFor (s.br.pos.toNat + n.toNat)) (startCommand s)
    rw [exec_readbits, runCommand_readbits_exhausted hi h1 h32 hp hn]
    refine ⟨_, rfl, ?_, hpos, heod, hpulled, ?_⟩
    · rw [heq]; exact ended_endCommand rfl rfl rfl
    · rw [heq]; rfl

/-! ## Illegal command words (R24, R126) -/

/-- The opcodes of R122, those whose operand A must be 0, and those whose operand D must be 0. -/
theorem decodeCommand_illegal_iff (w : CmdWord) :
    (cmdOp w ∉ [0x01, 0x02, 0x03, 0x10, 0x11, 0x12, 0x20, 0x30, 0x31, 0x40, 0x50] ∨ cmdRsv w ≠ 0 ∨
      (cmdOp w ∈ [0x01, 0x02, 0x03, 0x11, 0x12, 0x20, 0x31, 0x40] ∧ cmdA w ≠ 0) ∨
      (cmdOp w ∈ [0x01, 0x02, 0x03, 0x10, 0x11, 0x12, 0x20, 0x31] ∧ cmdD w ≠ 0)) ↔
      decodeCommand w = .illegalCmd w := by
  unfold decodeCommand
  generalize cmdOp w = op, cmdA w = a, cmdRsv w = r, cmdD w = d
  dsimp only
  by_cases hop : op ∈ [0x01, 0x02, 0x03, 0x10, 0x11, 0x12, 0x20, 0x30, 0x31, 0x40, 0x50]
  · simp only [List.mem_cons, List.not_mem_nil, or_false] at hop
    obtain rfl | rfl | rfl | rfl | rfl | rfl | rfl | rfl | rfl | rfl | rfl := hop
    all_goals simp
    all_goals tauto
  · simp only [hop, not_false_eq_true, true_or, true_iff]
    simp only [List.mem_cons, List.not_mem_nil, or_false, not_or, BitVec.ofNat_eq_ofNat] at hop
    simp [hop]

section
variable (s : State)

/-- A command that the model refuses at once: an opcode that is none, an operand or a cursor out of range. -/
theorem refused_at_once {i : Instr} {body : Act (BitVec 32)} (hexec : exec i s = .next (runCommand body s))
    (h : ∀ Q : BitVec 32 → State → Prop, ∀ E, Ends body Q E (startCommand s) ↔ E .illegalCommand (startCommand s)) :
    OnlyEnds i .illegalCommand 0 s :=
  onlyEnds_of_raises hexec ((h _ _).mpr ⟨rfl, rfl⟩)

theorem readbits_count_refused {n : BitVec 8} (h : n = 0 ∨ 32 < n.toNat) :
    OnlyEnds (.readbits n) .illegalCommand 0 s := by
  have hn : ¬(1 ≤ n.toNat ∧ n.toNat ≤ 32) := by
    obtain rfl | h := h
    · decide
    · omega
  refine refused_at_once s (exec_readbits n s) fun Q E => ?_
  rw [readbitsBody, if_neg hn, ends_throw]

theorem readbits_cursor_refused {n : BitVec 8} (h1 : 1 ≤ n.toNat) (h32 : n.toNat ≤ 32)
    (hp : 2 ^ 64 ≤ s.br.pos.toNat + n.toNat) :
    OnlyEnds (.readbits n) .illegalCommand 0 s := by
  refine refused_at_once s (exec_readbits n s) fun Q E => ?_
  rw [readbitsBody, if_pos ⟨h1, h32⟩, ends_bind, ends_get, ends_bind, cursorCheck_ends]
  exact iff_of_eq (if_neg (Nat.not_lt.mpr hp))

theorem parseHeader_cursor_refused (hp : 2 ^ 64 ≤ s.br.pos.toNat + 32) :
    OnlyEnds .parseHeader .illegalCommand 0 s := by
  refine refused_at_once s (body := parseHeaderBody) rfl fun Q E => ?_
  rw [parseHeaderBody, ends_bind, ends_get, ends_bind, cursorCheck_ends]
  exact iff_of_eq (if_neg (Nat.not_lt.mpr hp))

theorem sync_cursor_refused (hp : 2 ^ 64 ≤ 8 * bytesFor s.br.pos.toNat) :
    OnlyEnds .sync .illegalCommand 0 s := by
  refine refused_at_once s (body := syncBody) rfl fun Q E => ?_
  rw [syncBody, ends_bind, ends_get, ends_bind, cursorCheck_ends]
  exact iff_of_eq (if_neg (Nat.not_lt.mpr hp))

theorem decodeFrame_cursor_refused (hv : s.hdr.valid = true) (hcursor : s.br.pos = s.hdr.start + 32)
    (hp : 2 ^ 64 ≤ s.bodyEnd) :
    OnlyEnds .decodeFrame .illegalCommand 0 s := by
  have hheld : (startCommand s).headerHeld = true := by
    show (s.hdr.valid && s.br.pos == s.hdr.start + 32) = true
    rw [hv, hcursor, beq_self_eq_true]
    rfl
  refine refused_at_once s (exec_decodeFrame s) fun Q E => ?_
  rw [decodeFrameBody, ends_bind, ends_get]
  dsimp only
  rw [if_pos hheld, ends_bind, cursorCheck_ends]
  exact iff_of_eq (if_neg (Nat.not_lt.mpr hp))

end

/-- Settles O43: the decoder's illegal words opcode by opcode, and the commands that are refused at once. -/
theorem illegalCommandWordsChangeNothing : Obligations.IllegalCommandWordsChangeNothing := by
  unfold Obligations.IllegalCommandWordsChangeNothing
  refine ⟨decodeCommand_illegal_iff, fun w n s hn => ?_, fun s => ⟨fun n h1 h32 hp => ?_, parseHeader_cursor_refused s,
    sync_cursor_refused s, decodeFrame_cursor_refused s⟩⟩
  · simp only [List.forall_mem_cons]
    exact ⟨refused_at_once s (body := throw .illegalCommand) rfl fun _ _ => ends_throw _, readbits_count_refused s hn,
      nofun⟩
  · exact readbits_cursor_refused s h1 h32 hp

/-! ## SET_OUTPUT and GET_PARAM (R452, R456) -/

theorem setOutput_binds {d : BitVec 32} {s : State} (h : d.toNat < s.cfg.nSinks.val) :
    ∃ t, exec (.setOutput d) s = .next t ∧ Ended .ok 0 s t ∧ t.outSink.toNat = d.toNat ∧
      t = { s with outSink := t.outSink, st := t.st, cp := t.cp } := by
  have hd : d.toNat < 256 := by have := s.cfg.nSinks.isLt; omega
  have hrun : runCommand (setOutputBody d) s =
      endCommand .ok 0 ((startCommand s).withOutSink (BitVec.ofNat 8 d.toNat)) := by
    refine runCommand_of_returns ?_
    unfold setOutputBody
    simp only [ends_bind, ends_get, ends_ite, ends_throw, ends_modify, ends_pure]
    rw [if_neg (show ¬(startCommand s).cfg.nSinks.val ≤ d.toNat from Nat.not_le.mpr h)]
    exact ⟨trivial, trivial⟩
  exact ⟨_, congrArg Host.Outcome.next hrun, ended_endCommand rfl rfl rfl, Nat.mod_eq_of_lt hd, rfl⟩

theorem setOutput_refused {d : BitVec 32} {s : State} (h : s.cfg.nSinks.val ≤ d.toNat) :
    OnlyEnds (.setOutput d) .illegalCommand 0 s := by
  refine refused_at_once s (body := setOutputBody d) rfl fun Q E => ?_
  unfold setOutputBody
  simp only [ends_bind, ends_get, ends_ite, ends_throw]
  rw [if_pos (show (startCommand s).cfg.nSinks.val ≤ d.toNat from h)]

theorem getParam_returns {sel : BitVec 8} {idx : BitVec 32} (s : State) (h : legalParam sel idx = true) :
    OnlyEnds (.getParam sel idx) .ok (paramValue s sel.toNat idx.toNat) s := by
  refine onlyEnds_of_returns (body := getParamBody sel idx) rfl ?_
  unfold getParamBody
  simp only [ends_bind, ends_get, ends_pure, h, Bool.not_true, Bool.false_eq_true, if_false]
  exact ⟨rfl, trivial⟩

theorem getParam_refused {sel : BitVec 8} {idx : BitVec 32} (s : State) (h : legalParam sel idx = false) :
    OnlyEnds (.getParam sel idx) .illegalCommand 0 s := by
  refine refused_at_once s (body := getParamBody sel idx) rfl fun Q E => ?_
  unfold getParamBody
  simp only [ends_bind, ends_throw, h, Bool.not_false, if_true]

/-- The selectors and indices of R456, in the words of the command. -/
theorem legalParam_iff (sel : BitVec 8) (idx : BitVec 32) :
    legalParam sel idx = true ↔
      sel.toNat ≤ 27 ∧ if sel = 22 ∨ sel = 23 then idx.toNat < 32 else idx = 0 := by
  have h22 : sel.toNat = 22 ↔ sel = 22 := BitVec.toNat_inj (y := 22)
  have h23 : sel.toNat = 23 ↔ sel = 23 := BitVec.toNat_inj (y := 23)
  simp only [legalParam, Bool.and_eq_true, decide_eq_true_iff, h22, h23]
  split
  · rw [decide_eq_true_iff, Nat.lt_succ_iff]
  · rw [beq_iff_eq]

/-- A flag as a word. -/
theorem ofNat_toNat_bool (b : Bool) : BitVec.ofNat 32 b.toNat = if b then 1 else 0 := by cases b <;> rfl

/-- The three slots as the bits of a word. -/
theorem slots_bits (m : Slots) :
    m.bits = (if m.l3 then 4 else 0) ||| (if m.l2 then 2 else 0) ||| (if m.l1 then 1 else 0) := by
  obtain ⟨l1, l2, l3⟩ := m
  cases l1 <;> cases l2 <;> cases l3 <;> rfl

theorem paramValue_coefficient {s : State} {i : Nat} (h : i < 32) :
    paramValue s 23 i = Num.toBinary32 (Num.add s.cfg.num Num.one (rd s.eq i)) :=
  congrArg Num.toBinary32 (rd_tab _ i h)

/-- One row of the table: its selector, with an index it admits, delivers its value. -/
theorem getParam_row {sel k : BitVec 8} {idx v : BitVec 32} {s : State}
    (hv : (if k = 22 ∨ k = 23 then idx.toNat < 32 else idx = 0) → paramValue s k.toNat idx.toNat = v)
    (hk : k.toNat ≤ 27 := by decide) :
    sel = k → (if sel = 22 ∨ sel = 23 then idx.toNat < 32 else idx = 0) → OnlyEnds (.getParam sel idx) .ok v s := by
  rintro rfl hidx
  rw [← hv hidx]
  exact getParam_returns s ((legalParam_iff sel idx).mpr ⟨hk, hidx⟩)

theorem legalParam_eq_false {sel : BitVec 8} {idx : BitVec 32}
    (h : 27 < sel.toNat ∨ if sel = 22 ∨ sel = 23 then 32 ≤ idx.toNat else idx ≠ 0) : legalParam sel idx = false := by
  rw [← Bool.not_eq_true, legalParam_iff]
  rintro ⟨hsel, hidx⟩
  obtain h | h := h
  · omega
  · split_ifs at h hidx
    exacts [absurd hidx (Nat.not_lt.mpr h), h hidx]

/-- Settles O42: a sink is bound or refused, and each row of the table is the value that `GET_PARAM` delivers. -/
theorem setOutputAndGetParam : Obligations.SetOutputAndGetParam := by
  unfold Obligations.SetOutputAndGetParam
  refine ⟨fun d s => ⟨setOutput_binds, setOutput_refused⟩, fun sel idx s => ⟨?_, fun h =>
    getParam_refused s (legalParam_eq_false h)⟩⟩
  simp only [List.forall_mem_append, List.forall_mem_cons]
  exact ⟨⟨getParam_row fun _ => rfl, getParam_row fun _ => rfl, getParam_row fun _ => rfl, getParam_row fun _ => rfl,
    getParam_row fun _ => rfl, getParam_row fun _ => rfl, getParam_row fun _ => ofNat_toNat_bool _,
    getParam_row fun _ => rfl, getParam_row fun _ => rfl, getParam_row fun _ => rfl, getParam_row fun _ => rfl,
    getParam_row fun _ => rfl, getParam_row fun _ => rfl, getParam_row fun _ => ofNat_toNat_bool _,
    getParam_row fun _ => rfl, getParam_row fun _ => rfl, nofun⟩,
    getParam_row fun _ => rfl, getParam_row fun _ => rfl, getParam_row fun _ => rfl, getParam_row fun _ => rfl,
    getParam_row fun _ => ofNat_toNat_bool _, getParam_row fun _ => rfl, getParam_row fun _ => rfl,
    getParam_row paramValue_coefficient, getParam_row fun _ => ofNat_toNat_bool _, getParam_row fun _ => rfl,
    getParam_row fun _ => rfl, getParam_row fun _ => slots_bits _, nofun⟩

end Sys2Proof.Machine
end

section
/-! PROOFS. What a step does with a request, the resets, and the equalizer's commands on both ports. -/

-- One theorem after another: threads that wait for each other exhaust the memory limit with their stacks.
set_option Elab.async false

namespace Sys2Proof.Machine

open Act

/-! ## Steps (R20, R102, R104, R120) -/

section
variable {s : State} {rest : List HostOp}

/-- A step is the boundary of `EQW` and then the request, in the state without it. -/
theorem step_request {op : HostOp} (h : s.cp.ops = op :: rest) :
    step s = perform op (dequeue rest (eqBoundary s)) := by
  have hops : (eqBoundary s).cp.ops = op :: rest := by rw [(eqw_boundary s).cp, h]
  simp only [step, hops]

theorem step_idle (h : s.cp.ops = []) : step s = .next (eqBoundary s) := by
  have hops : (eqBoundary s).cp.ops = [] := by rw [(eqw_boundary s).cp, h]
  simp only [step, hops]

end

/-- Settles O4: the boundary of `EQW` keeps parameters, bit reader and source, so the request finds those of the state. -/
theorem stepRunsDecodedInstruction : Obligations.StepRunsDecodedInstruction := by
  unfold Obligations.StepRunsDecodedInstruction
  intro s rest
  have hw := eqw_boundary s
  have hcfg : (dequeue rest (eqBoundary s)).cfg = s.cfg := hw.cfg
  have hbr : (dequeue rest (eqBoundary s)).br = s.br := hw.br
  have hsrc : (dequeue rest (eqBoundary s)).src = s.src := hw.src
  refine ⟨fun w h => ?_, fun p h => ?_, fun x h => ?_, fun bytes t h ht => ?_, step_idle⟩
  · rw [step_request h, perform, hcfg]
  · rw [step_request h, perform, hcfg]
  · rw [step_request h, perform, hcfg]
  · subst ht
    rw [step_request h, ← hbr, ← hsrc]
    exact ⟨fun hidle => congrArg Host.Outcome.next (if_pos hidle), fun hbusy => congrArg Host.Outcome.next (if_neg hbusy)⟩

/-! ## Resets (R521) -/

theorem exec_reset (s : State) : exec .reset s = .next (endCommand .ok 0 (resetState (startCommand s))) := by
  refine congrArg Host.Outcome.next (runCommand_of_returns (body := resetBody) ?_)
  unfold resetBody
  simp only [ends_bind, ends_modify, ends_pure, and_self]

/-- Settles O45: the reset input is `RESET` without the end of a command, and at reset `ST` holds its code. -/
theorem resetClearsEverything : Obligations.ResetClearsEverything := by
  unfold Obligations.ResetClearsEverything
  refine ⟨fun s => ⟨_, exec_reset s, rfl, rfl, rfl, rfl, rfl⟩, fun rest s h => ?_⟩
  refine ⟨_, _, step_request h, exec_reset _, ?_⟩
  rw [← (eqw_boundary s).cp]
  rfl

/-! ## EQ_SETBAND (R232) -/

theorem exec_eqSetband (band : BitVec 8) (v : BitVec 32) (s : State) :
    exec (.eqSetband band v) s = .next (runCommand (eqSetbandBody band v) s) := rfl

section
variable {band : BitVec 8} {v : BitVec 32} {s : State}

theorem eqSetband_stores (hb : band.toNat < 32) (hn : Num.isNaN (bandValue s v) = false) :
    eqSetbandBody band v s = .ok 0 (s.withEq (wr s.eq band.toNat (clampUnit (bandValue s v)))) := by
  have hok : ¬(32 ≤ band.toNat ∨ Num.isNaN (bandValue s v) = true) := by simp [hb, hn]
  rw [eqSetband_eq, if_neg hok]

theorem eqSetband_refuses (h : 32 ≤ band.toNat ∨ Num.isNaN (bandValue s v) = true) :
    eqSetbandBody band v s = .error .bandOutOfRange s := by
  rw [eqSetband_eq, if_pos h]

/-- `EQ_SETBAND` on the command port, with a band and a number. -/
theorem exec_eqSetband_ok (hb : band.toNat < 32) (hn : Num.isNaN (bandValue s v) = false) :
    exec (.eqSetband band v) s =
      .next (endCommand .ok 0 ((startCommand s).withEq (wr s.eq band.toNat (clampUnit (bandValue s v))))) := by
  have hbody := eqSetband_stores (s := startCommand s) hb hn
  rw [exec_eqSetband, runCommand_of_returns (by unfold Ends; rw [hbody]; exact ⟨rfl, rfl⟩)]
  rfl

theorem exec_eqSetband_refused (h : 32 ≤ band.toNat ∨ Num.isNaN (bandValue s v) = true) :
    exec (.eqSetband band v) s = .next (endCommand .bandOutOfRange 0 (startCommand s)) := by
  have hbody := eqSetband_refuses (s := startCommand s) h
  rw [exec_eqSetband, runCommand_of_raises (by unfold Ends; rw [hbody]; exact ⟨rfl, rfl⟩)]

end

/-- `clamp(v, -1.0, 1.0)` with its tests as equations. -/
theorem clampUnit_eq (v : Sample) :
    clampUnit v =
      if Num.le Num.minusOne v = false then Num.minusOne else if Num.le v Num.one = false then Num.one else v := by
  simp only [clampUnit, Bool.not_eq_true']

/-- Settles O35: the body stores the clamped value or refuses, and the command adds its end. -/
theorem setBandStoresTheClampedValue : Obligations.SetBandStoresTheClampedValue := by
  unfold Obligations.SetBandStoresTheClampedValue
  refine ⟨fun band v s hb hn => ?_, fun band v s h =>
    ⟨_, exec_eqSetband_refused h, ended_endCommand rfl rfl rfl, rfl⟩⟩
  refine ⟨_, exec_eqSetband_ok hb hn, ended_endCommand rfl rfl rfl, ?_, fun i _ hne => rd_wr_other _ _ _ _ hne.symm, rfl⟩
  exact (rd_wr_self _ _ _ hb).trans (clampUnit_eq _)

/-! ## EQ_APPLY (R234, R236) -/

section
variable {s t : State}

/-- The coefficients of the filter that is written. -/
theorem applyFactors_eqf {ch i : Nat} (hc : ch < 2) (hi : i < 32) :
    rd (rd (applyFactors ch s).sf ch).eqf i = Num.add s.cfg.num Num.one (rd s.eq i) := by
  rw [applyFactors_sf, if_pos ⟨rfl, hc⟩]
  exact rd_tab _ i hi

theorem applyFactors_sf_other {ch c : Nat} (h : ch ≠ c) : rd (applyFactors ch s).sf c = rd s.sf c := by
  rw [applyFactors_sf, if_neg fun hc => h hc.1]

/-- What `EQW` may write: its port, the equalizer and the latched result. -/
theorem EqwFrame.eq_with (h : EqwFrame s t) : t = { s with eq := t.eq, sf := t.sf, st := t.st, ep := t.ep } := by
  cases s; cases t; cases h
  simp_all

theorem exec_eqApply (s : State) :
    exec .eqApply s =
      .next (endCommand .ok 0 (applyFactors 1 (eqBoundary (applyFactors 0 (startCommand s))))) := by
  refine congrArg Host.Outcome.next (runCommand_of_returns (body := eqApplyBody) ?_)
  unfold eqApplyBody
  simp only [ends_bind, ends_modify, ends_pure, and_self]

end

/-- Settles O36: between the two filters `EQW` may act, which keeps what a command's end latches. -/
theorem applyWritesBothFilters : Obligations.ApplyWritesBothFilters := by
  unfold Obligations.ApplyWritesBothFilters
  intro s
  have hw : EqwFrame (startCommand s) (applyFactors 1 (eqBoundary (applyFactors 0 (startCommand s)))) :=
    (eqw_applyFactors 0 _).trans _ _ _ ((eqw_boundary _).trans _ _ _ (eqw_applyFactors 1 _))
  have hcfg : (eqBoundary (applyFactors 0 (startCommand s))).cfg = s.cfg := (eqw_boundary _).cfg
  refine ⟨_, exec_eqApply s, ended_endCommand hw.first hw.gerr hw.cp, fun i hi => ?_, hw.history, fun hidle => ?_, ?_⟩
  · rw [← hcfg]
    exact applyFactors_eqf (by decide) hi
  · rw [eqBoundary_idle (s := applyFactors 0 (startCommand s)) hidle]
    refine ⟨rfl, rfl, fun i hi => ?_⟩
    rw [show (endCommand .ok 0 (applyFactors 1 (applyFactors 0 (startCommand s)))).sf =
      (applyFactors 1 (applyFactors 0 (startCommand s))).sf from rfl, applyFactors_sf_other (by decide)]
    exact applyFactors_eqf (s := startCommand s) (by decide) hi
  · rw [hw.eq_with]
    rfl

/-! ## The equalizer port (R102, R103, R125, R495) -/

section
variable {s : State} {w : CmdWord} {rest : List CmdWord}

theorem eqwStep_second (h : s.ep.halfApplied = true) :
    eqwStep s = endEqCommand .ok ((applyFactors 1 s).withEp { s.ep with halfApplied := false }) := by
  unfold eqwStep
  rw [if_pos h]
  rfl

theorem eqwStep_idle (h : s.ep.halfApplied = false) (hq : s.ep.queue = []) : eqwStep s = s := by
  unfold eqwStep
  rw [if_neg (by simp [h]), hq]

theorem eqwStep_accept (h : s.ep.halfApplied = false) (hq : s.ep.queue = w :: rest) :
    eqwStep s = eqwPerform (decodeCommand w) (s.withEp { s.ep with queue := rest }) := by
  unfold eqwStep
  rw [if_neg (by simp [h]), hq]
  rfl

/-- Performing a command leaves the queue. -/
theorem eqwPerform_queue (i : Instr) (s : State) : (eqwPerform i s).ep.queue = s.ep.queue := by
  obtain ⟨band, v, -, h⟩ | ⟨-, h⟩ | h := eqwPerform_cases i s <;> rw [h]
  · obtain ⟨-, -, k⟩ | k := eqwFinish_cases band v s <;> rw [k] <;> rfl
  · rfl
  · rfl

theorem eqwPerform_illegal {i : Instr} (hset : ∀ band v, i ≠ .eqSetband band v) (happly : i ≠ .eqApply) :
    eqwPerform i s = endEqCommand .illegalCommand s := by
  obtain ⟨band, v, hi, -⟩ | ⟨hi, -⟩ | h := eqwPerform_cases i s
  · exact absurd hi (hset band v)
  · exact absurd hi happly
  · exact h

variable {band : BitVec 8} {v : BitVec 32} {t d : State}

theorem eqwPerform_eqSetband_eq (d : State) :
    eqwPerform (.eqSetband band v) d = eqwFinish (eqSetbandBody band v d) := rfl

/-- An `EQ_SETBAND` on the equalizer port writes no filter. -/
theorem eqwPerform_eqSetband_sf (d : State) : (eqwPerform (.eqSetband band v) d).sf = d.sf := by
  obtain ⟨-, -, k⟩ | k := eqwFinish_cases band v d <;> rw [eqwPerform_eqSetband_eq, k] <;> rfl

/-- An `EQ_SETBAND` stores and ends on the equalizer port as on the command port. -/
theorem eqwPerform_eqSetband (hcfg : d.cfg = s.cfg) (heq : d.eq = s.eq) (h : exec (.eqSetband band v) s = .next t) :
    (eqwPerform (.eqSetband band v) d).eq = t.eq ∧
      (eqwPerform (.eqSetband band v) d).ep.results = resultWord t.st.code 0 0 :: d.ep.results ∧
      (eqwPerform (.eqSetband band v) d).st = { d.st with code := t.st.code, warn := 0, value := 0 } := by
  have hvalue : bandValue d v = bandValue s v := by rw [bandValue, hcfg]; rfl
  by_cases hr : 32 ≤ band.toNat ∨ Num.isNaN (bandValue s v) = true
  · rw [exec_eqSetband_refused hr] at h
    rw [eqwPerform_eqSetband_eq, eqSetband_refuses (hvalue ▸ hr), ← Host.Outcome.next.inj h]
    exact ⟨heq, rfl, rfl⟩
  · simp only [not_or, Nat.not_le, Bool.not_eq_true] at hr
    rw [exec_eqSetband_ok hr.1 hr.2] at h
    rw [eqwPerform_eqSetband_eq, eqSetband_stores hr.1 (hvalue ▸ hr.2), ← Host.Outcome.next.inj h, hvalue, heq]
    exact ⟨rfl, rfl, rfl⟩

end

/-- Settles O37: one lemma for each thing `EQW` can do in a step. -/
theorem equalizerPortTakesItsTwoCommands : Obligations.EqualizerPortTakesItsTwoCommands := by
  unfold Obligations.EqualizerPortTakesItsTwoCommands
  refine ⟨fun w rest s hhalf hq => ?_, fun s => ⟨fun hhalf => ?_, eqwStep_idle⟩⟩
  · have hstep := eqwStep_accept hhalf hq
    refine ⟨?_, (eqw_step s).eq_with, fun band v hw => ?_, fun hw => ?_, fun hset happly => ?_⟩
    · rw [hstep, eqwPerform_queue]
      rfl
    · rw [hstep, hw]
      exact ⟨fun t ht => eqwPerform_eqSetband (s := s) rfl rfl ht, eqwPerform_eqSetband_sf _⟩
    · rw [hstep, hw]
      refine ⟨rfl, rfl, rfl, applyFactors_sf_other (by decide), ?_, ?_⟩
      · exact (eqw_applyFactors 0 _).history 0 (by decide)
      · exact fun i hi => applyFactors_eqf (s := s.withEp { s.ep with queue := rest }) (by decide) hi
    · rw [hstep, eqwPerform_illegal hset happly]
      exact ⟨rfl, rfl, rfl, rfl⟩
  · rw [eqwStep_second hhalf]
    refine ⟨rfl, rfl, rfl, applyFactors_sf_other (by decide), ?_, ?_⟩
    · exact (eqw_applyFactors 1 s).history 1 (by decide)
    · exact fun i hi => applyFactors_eqf (s := s) (by decide) hi

end Sys2Proof.Machine
end

section
/-! PROOFS. Two reads in a row deliver the bits of one longer read (R83). -/

-- One theorem after another: threads that wait for each other exhaust the memory limit with their stacks.
set_option Elab.async false

namespace Sys2Proof.Machine

/-! ## A bit field in two parts (R82, R83) -/

/-- A field of a + b bits is its first a bits followed by the other b. -/
theorem bitsAt_add (bytes : List Byte) (p a b : Nat) :
    bitsAt bytes p (a + b) = bitsAt bytes p a <<< b ||| bitsAt bytes (p + a) b := by
  rw [← Nat.shiftLeft_add_eq_or_of_lt (bitsAt_lt bytes (p + a) b), Nat.shiftLeft_eq]
  induction b with
  | zero => simp [bitsAt_zero]
  | succ b ih =>
    rw [← Nat.add_assoc, bitsAt_succ, bitsAt_succ, ih, Nat.pow_succ, Nat.add_assoc p a b]
    ring

/-- A shift of a number is the shift of its word. -/
theorem ofNat_shiftLeft_eq {w : Nat} (x k : Nat) : BitVec.ofNat w (x <<< k) = BitVec.ofNat w x <<< k := by
  apply BitVec.eq_of_toNat_eq
  simp [Nat.shiftLeft_eq]

/-! ## Bytes within reach of the reader (R23, R84) -/

/-- The reader has n bytes or can still pull them. -/
def Reaches (s : State) (n : Nat) : Prop :=
  n ≤ s.br.pulled.toNat ∨ s.br.eod = false ∧ n ≤ s.src.bytes.length

/-- A pull delivers the needed bytes exactly when they are within reach. -/
theorem pullTo_delivers_iff {need : Nat} {s : State} (hn : need < 2 ^ 64) :
    need ≤ (pullTo need s).br.pulled.toNat ↔ Reaches s need := by
  unfold Reaches
  by_cases h : s.br.eod = true ∨ need ≤ s.br.pulled.toNat
  · rw [pullTo_same h]
    obtain h | h := h <;> simp [h]
  · rw [pullTo_br h]
    simp only [not_or, Bool.not_eq_true] at h
    have hlow := need_le_wanted need s
    have hhigh : wanted need s < 2 ^ 64 := by unfold wanted addressableBytes; omega
    rw [BitVec.toNat_ofNat, Nat.mod_eq_of_lt (by omega)]
    simp only [h.1, h.2, true_and, false_or]
    omega

/-- A pull brings no byte within reach that was not. -/
theorem reaches_of_pullTo {need n : Nat} {s : State} (h : Reaches (pullTo need s) n) : Reaches s n := by
  by_cases hsame : s.br.eod = true ∨ need ≤ s.br.pulled.toNat
  · rwa [pullTo_same hsame] at h
  · unfold Reaches at h
    rw [(pullTo_frame need s).src, pullTo_br hsame, BitVec.toNat_ofNat] at h
    simp only [not_or, Bool.not_eq_true] at hsame
    have hmod := Nat.mod_le (min (wanted need s) s.src.bytes.length) (2 ^ 64)
    exact .inr ⟨hsame.1, by omega⟩

/-! ## Where a body that was run ends -/

section
variable {α : Type} {a : Act α} {Q : α → State → Prop} {E : Code → State → Prop} {s t : State}

theorem Act.ends_iff_of_ok {v : α} (h : a s = .ok v t) : Act.Ends a Q E s ↔ Q v t := by
  unfold Act.Ends
  rw [h]

theorem Act.ends_iff_of_error {e : Code} (h : a s = .error e t) : Act.Ends a Q E s ↔ E e t := by
  unfold Act.Ends
  rw [h]

end

/-! ## A `READBITS` that ends with OK (R181) -/

/-- The state after a `READBITS n` that has found its bits. -/
def readEnd (n : Nat) (s : State) : State :=
  endCommand .ok (BitVec.ofNat 32 (bitsAt s.src.bytes s.br.pos.toNat n))
    ((pullTo (bytesFor (s.br.pos.toNat + n)) (startCommand s)).withPos (s.br.pos.toNat + n))

theorem readEnd_value (n : Nat) (s : State) :
    (readEnd n s).st.value = BitVec.ofNat 32 (bitsAt s.src.bytes s.br.pos.toNat n) := rfl

theorem readEnd_src (n : Nat) (s : State) : (readEnd n s).src = s.src :=
  (pullTo_frame _ (startCommand s)).src

theorem readEnd_pos {n : Nat} {s : State} (hp : s.br.pos.toNat + n < 2 ^ 64) :
    (readEnd n s).br.pos.toNat = s.br.pos.toNat + n := Nat.mod_eq_of_lt hp

theorem reaches_of_readEnd {n m : Nat} {s : State} (h : Reaches (readEnd n s) m) : Reaches s m :=
  reaches_of_pullTo (s := startCommand s) h

section
variable {n : Nat} {s t : State} (h1 : 1 ≤ n) (h32 : n ≤ 32)

include h32 in
theorem toNat_readWidth : (BitVec.ofNat 8 n).toNat = n := Nat.mod_eq_of_lt (by omega)

include h32 in
theorem exec_readbits_ofNat : exec (.readbits (.ofNat 8 n)) s = .next (runCommand (readbitsBody n) s) := by
  rw [exec_readbits, toNat_readWidth h32]

include h1 h32

/-- With its bits addressable and within reach `READBITS n` ends with OK, also where the reader's invariant fails. -/
theorem exec_readbits_of_reaches (hp : s.br.pos.toNat + n < 2 ^ 64) (hr : Reaches s (bytesFor (s.br.pos.toNat + n))) :
    exec (.readbits (.ofNat 8 n)) s = .next (readEnd n s) := by
  have hdelivered := (pullTo_delivers_iff (s := startCommand s) (bytesFor_lt hp)).mpr hr
  rw [exec_readbits_ofNat h32]
  refine congrArg Host.Outcome.next (runCommand_of_returns ((readbitsBody_ends (s := startCommand s) h1 h32 hp).mpr ?_))
  rw [Act.ends_iff_of_ok ((readBits_eq _ _).trans (if_neg (Nat.not_lt.mpr hdelivered)))]
  exact ⟨rfl, rfl⟩

theorem exec_readbits_of_not_reaches (hp : s.br.pos.toNat + n < 2 ^ 64)
    (hr : ¬Reaches s (bytesFor (s.br.pos.toNat + n))) :
    exec (.readbits (.ofNat 8 n)) s =
      .next (endCommand .streamExhausted 0 (pullTo (bytesFor (s.br.pos.toNat + n)) (startCommand s))) := by
  have hshort := mt (pullTo_delivers_iff (s := startCommand s) (bytesFor_lt hp)).mp hr
  rw [exec_readbits_ofNat h32]
  refine congrArg Host.Outcome.next (runCommand_of_raises ((readbitsBody_ends (s := startCommand s) h1 h32 hp).mpr ?_))
  rw [Act.ends_iff_of_error ((readBits_eq _ _).trans (if_pos (Nat.not_le.mp hshort)))]
  exact ⟨rfl, rfl⟩

/-- A `READBITS n` that ended with OK had its bits addressable and within reach. -/
theorem readbits_ok_inv (h : exec (.readbits (.ofNat 8 n)) s = .next t) (hcode : t.st.code = 0) :
    s.br.pos.toNat + n < 2 ^ 64 ∧ Reaches s (bytesFor (s.br.pos.toNat + n)) ∧ t = readEnd n s := by
  by_cases hp : s.br.pos.toNat + n < 2 ^ 64
  · by_cases hr : Reaches s (bytesFor (s.br.pos.toNat + n))
    · rw [exec_readbits_of_reaches h1 h32 hp hr] at h
      exact ⟨hp, hr, (Host.Outcome.next.inj h).symm⟩
    · rw [exec_readbits_of_not_reaches h1 h32 hp hr] at h
      rw [← Host.Outcome.next.inj h] at hcode
      exact absurd hcode (Code.toByte_ne_zero (e := .streamExhausted) rfl)
  · have hwidth := toNat_readWidth h32
    obtain ⟨u, hexec, hended, -⟩ :=
      readbits_cursor_refused (n := .ofNat 8 n) s (by rwa [hwidth]) (by rwa [hwidth]) (by rw [hwidth]; omega)
    rw [← Host.Outcome.next.inj (hexec.symm.trans h), hended.st] at hcode
    exact absurd hcode (Code.toByte_ne_zero (e := .illegalCommand) rfl)

end

/-- The value of one long read is the values of the two short ones side by side. -/
theorem readEnd_value_add (a b : Nat) {s : State} (hp : s.br.pos.toNat + a < 2 ^ 64) :
    (readEnd (a + b) s).st.value = (readEnd a s).st.value <<< b ||| (readEnd b (readEnd a s)).st.value := by
  rw [readEnd_value, readEnd_value, readEnd_value, readEnd_src, readEnd_pos hp, bitsAt_add, BitVec.ofNat_or,
    ofNat_shiftLeft_eq]

/-- Settles O11: what the second read reaches is in reach of the long read from the start, and the long field is the two
fields side by side. -/
theorem splitReadsConcatenate : Obligations.SplitReadsConcatenate := by
  unfold Obligations.SplitReadsConcatenate
  intro a b s t u ha hb hab hread hcode hread' hcode'
  obtain ⟨hp, -, rfl⟩ := readbits_ok_inv ha (by omega) hread hcode
  obtain ⟨hp', hreach, rfl⟩ := readbits_ok_inv hb (by omega) hread' hcode'
  have hpos' := readEnd_pos hp'
  rw [readEnd_pos hp, Nat.add_assoc] at hp' hreach hpos'
  have hlong := exec_readbits_of_reaches (by omega) hab hp' (reaches_of_readEnd hreach)
  refine ⟨_, hlong, rfl, readEnd_value_add a b hp, ?_⟩
  exact BitVec.eq_of_toNat_eq ((readEnd_pos hp').trans hpos'.symm)

end Sys2Proof.Machine
end

section
/-! PROOFS. The encoding and the decoder are inverse to each other (R121, R122, R131, R142, R155, R161). -/

-- One theorem after another: threads that wait for each other exhaust the memory limit with their stacks.
set_option Elab.async false

namespace Sys2Proof

open Laws in
/-- Settles O2: the round trip of each instruction, constructor by constructor. -/
theorem encodedInstructionDecodes : Obligations.EncodedInstructionDecodes := by
  unfold Obligations.EncodedInstructionDecodes
  intro i
  cases i
  exacts [RoundTrip.reset, RoundTrip.reinit, RoundTrip.restart, RoundTrip.readbits _, RoundTrip.sync,
    RoundTrip.parseHeader, RoundTrip.decodeFrame, RoundTrip.eqSetband _ _, RoundTrip.eqApply, RoundTrip.setOutput _,
    RoundTrip.getParam _ _, RoundTrip.illegalCmd _, RoundTrip.readbit, RoundTrip.nextHeader, RoundTrip.setEqualizer _,
    RoundTrip.decodeNext, RoundTrip.frameL1 _, RoundTrip.frameL2 _, RoundTrip.frameL3 _, RoundTrip.hdrNoSync _,
    RoundTrip.hdrRsvVersion _, RoundTrip.hdrRsvLayer _, RoundTrip.hdrRsvBitrate _, RoundTrip.hdrRsvRate _,
    RoundTrip.hdrFreeFormat _, RoundTrip.blkNormal, RoundTrip.blkStart _, RoundTrip.blkShort, RoundTrip.blkMixed,
    RoundTrip.blkStop _, RoundTrip.blkReserved _, RoundTrip.tsel0, RoundTrip.tsel1, RoundTrip.tsel2, RoundTrip.tsel3,
    RoundTrip.tsel4, RoundTrip.tsel5, RoundTrip.tsel6, RoundTrip.tsel7, RoundTrip.tsel8, RoundTrip.tsel9,
    RoundTrip.tsel10, RoundTrip.tsel11, RoundTrip.tsel12, RoundTrip.tsel13, RoundTrip.tsel14, RoundTrip.tsel15,
    RoundTrip.tsel16, RoundTrip.tsel17, RoundTrip.tsel18, RoundTrip.tsel19, RoundTrip.tsel20, RoundTrip.tsel21,
    RoundTrip.tsel22, RoundTrip.tsel23, RoundTrip.tsel24, RoundTrip.tsel25, RoundTrip.tsel26, RoundTrip.tsel27,
    RoundTrip.tsel28, RoundTrip.tsel29, RoundTrip.tsel30, RoundTrip.tsel31, RoundTrip.count1A, RoundTrip.count1B]

/-! ## Every word is the word of what it decodes to -/

/-- A test of the decoder, on both sides. -/
theorem encode_ite {c : Prop} [Decidable c] {i j : Instr} {f : Fetched} (hi : c → encode i = f)
    (hj : ¬ c → encode j = f) :
    encode (if c then i else j) = f := by
  split
  · exact hi ‹_›
  · exact hj ‹_›

/-- The word of an opcode and operands, reserved bits 0: every test that it passes names a field of it. -/
theorem encode_decodeCommand_cmdWord (op a : BitVec 8) (d : BitVec 32) :
    encode (decodeCommand (cmdWord op a d)) = .command (cmdWord op a d) := by
  simp only [decodeCommand, cmdOp_cmdWord, cmdA_cmdWord, cmdRsv_cmdWord, cmdD_cmdWord]
  repeat' refine encode_ite (fun h => ?_) fun h => ?_
  all_goals simp_all only [encode, not_not, ne_eq, not_true_eq_false]

theorem encode_decodeCommand (w : CmdWord) : encode (decodeCommand w) = .command w := by
  by_cases hr : cmdRsv w = 0
  · rw [← cmdWord_fields w hr, encode_decodeCommand_cmdWord]
  · rw [decodeCommand]
    rw [if_pos hr, encode]

theorem encode_headerRow (c : HeaderClass) (h : HeaderFields) : encode (headerRow c h) = .header (joinHeader h) := by
  cases c <;> rfl

theorem encode_decodeSelector (x : Selector) : encode (decodeSelector x) = .selector x := by
  cases x with
  | tableSelect t => decide +revert
  | count1Select b => decide +revert
  | longBlock => rfl
  | windowSwitched bt m => decide +revert

/-- Settles O3: the word of a row has the fields that the decoder has tested and kept. -/
theorem decodedWordEncodes : Obligations.DecodedWordEncodes := by
  unfold Obligations.DecodedWordEncodes
  intro sb f
  cases f with
  | command w => exact encode_decodeCommand w
  | header w => exact (encode_headerRow _ _).trans (congrArg Fetched.header (join_split w))
  | selector x => exact encode_decodeSelector x
  | pseudo p => cases p <;> rfl

/-- Settles O1: each word runs through the decoder. -/
theorem wordsOfTheTableDecode : Obligations.WordsOfTheTableDecode := by
  unfold Obligations.WordsOfTheTableDecode
  decide

end Sys2Proof
end

section
/-! PROOFS. The search for a code word in the main-data window (R366). -/

-- One theorem after another: threads that wait for each other exhaust the memory limit with their stacks.
set_option Elab.async false

namespace Sys2Proof.Machine

/-! ## Lookup in a codebook in which no word begins another (R364, R366) -/

section
variable {α : Type} {book : List (CodeWord α)} {e : CodeWord α} {md : MainData} {stop p : Nat}

/-- No word of a codebook is longer than the longest. -/
theorem hlen_le_longest (he : e ∈ book) : e.hlen ≤ longest book := by
  have key (l : List (CodeWord α)) (m : Nat) :
      m ≤ l.foldl (fun m f => max m f.hlen) m ∧ ∀ f ∈ l, f.hlen ≤ l.foldl (fun m f => max m f.hlen) m := by
    induction l generalizing m with
    | nil => simp
    | cons f l ih =>
      obtain ⟨hm, hl⟩ := ih (max m f.hlen)
      simp only [List.foldl_cons, List.forall_mem_cons]
      exact ⟨by omega, by omega, hl⟩
  exact (key book 0).2 e he

/-- The first bits of a field are what is left of it without the others. -/
theorem bitsAt_div (bytes : List Byte) (p a b : Nat) : bitsAt bytes p (a + b) / 2 ^ b = bitsAt bytes p a := by
  rw [bitsAt_add, ← Nat.shiftRight_eq_div_pow, Nat.shiftRight_or_distrib, Nat.shiftLeft_shiftRight,
    Nat.shiftRight_eq_div_pow, Nat.div_eq_of_lt (bitsAt_lt _ _ _), Nat.or_zero]

variable (hfree : PrefixFree book) (he : e ∈ book) (hbits : bitsAt md.bytes p e.hlen = e.hcod)
include hfree he hbits

/-- An entry whose word begins the bits at p, and is no longer than the word of e there, is e. -/
theorem eq_of_word_at {f : CodeWord α} (hf : f ∈ book) (hlen : f.hlen ≤ e.hlen)
    (hword : f.hcod = bitsAt md.bytes p f.hlen) : f = e := by
  refine hfree f hf e he hlen ?_
  rw [← hbits, hword, ← bitsAt_div md.bytes p f.hlen (e.hlen - f.hlen), Nat.add_sub_cancel' hlen]

/-- Once n bits of the word of e are taken, the search ends with e. -/
theorem lookupFrom_word (hstop : p + e.hlen ≤ stop) (hmd : p + e.hlen ≤ 8 * md.len.toNat) {fuel n : Nat}
    (hn : n < e.hlen) (hfuel : e.hlen ≤ n + fuel) :
    lookupFrom book md stop fuel n (bitsAt md.bytes p n) (p + n) = some (e.value, p + e.hlen) := by
  induction fuel generalizing n with
  | zero => omega
  | succ fuel ih =>
    have htake : mdTake md stop (p + n) 1 = some (bitsAt md.bytes (p + n) 1, p + (n + 1)) := if_pos (by omega)
    have hnext : 2 * bitsAt md.bytes p n + bitsAt md.bytes (p + n) 1 = bitsAt md.bytes p (n + 1) := by
      simp [bitsAt_succ, bitsAt_zero]
    simp only [lookupFrom, htake, hnext]
    cases hfind : book.find? fun f => f.hlen == n + 1 && f.hcod == bitsAt md.bytes p (n + 1) with
    | some f =>
      obtain ⟨hlen, hcod⟩ : f.hlen = n + 1 ∧ f.hcod = bitsAt md.bytes p (n + 1) := by
        simpa using List.find?_some hfind
      obtain rfl := eq_of_word_at hfree he hbits (List.mem_of_find?_eq_some hfind) (by omega) (hlen ▸ hcod)
      rw [hlen]
    | none =>
      have hother := List.find?_eq_none.mp hfind e he
      have hlt : n + 1 < e.hlen := by
        refine Nat.lt_of_le_of_ne hn fun hend => hother ?_
        simp [hend, ← hbits]
      exact ih hlt (by omega)

end

/-- Settles O50: the search from the first bit of the word. -/
theorem lookupReadsTheCodeWord : Obligations.LookupReadsTheCodeWord := by
  unfold Obligations.LookupReadsTheCodeWord
  intro α book e md stop p hfree he hlen hstop hmd hbits
  exact lookupFrom_word hfree he hbits hstop hmd hlen (by simpa using hlen_le_longest he)

end Sys2Proof.Machine
end

section
/-! PROOFS. `SYNC` finds the first sync pattern, or consumes the stream (R132, R186). -/

-- One theorem after another: threads that wait for each other exhaust the memory limit with their stacks.
set_option Elab.async false

namespace Sys2Proof.Machine

open Act

/-! ## The scan for a pattern (R186) -/

/-- A sync pattern with the second-byte mask m starts at byte i of a list. -/
def PatternIn (m : Byte) (l : List Byte) (i : Nat) : Prop :=
  i + 1 < l.length ∧ l.getD i 0 = 0xFF ∧ l.getD (i + 1) 0 &&& m = m

theorem patternAt_iff (s : State) (p : Nat) :
    PatternAt s p ↔ PatternIn (syncMask s.cfg.syncBits) s.src.bytes p := Iff.rfl

theorem patternIn_drop {m : Byte} {l : List Byte} {k i : Nat} : PatternIn m (l.drop k) i ↔ PatternIn m l (k + i) := by
  unfold PatternIn
  simp only [List.length_drop, List.getD_eq_getElem?_getD, List.getElem?_drop, Nat.add_assoc]
  exact and_congr_left' (by omega)

theorem patternIn_cons_zero {m b0 b1 : Byte} {l : List Byte} :
    PatternIn m (b0 :: b1 :: l) 0 ↔ b0 = 0xFF ∧ b1 &&& m = m := by
  simp [PatternIn]

theorem patternIn_cons_succ {m b : Byte} {l : List Byte} {i : Nat} :
    PatternIn m (b :: l) (i + 1) ↔ PatternIn m l i := by
  simp [PatternIn]

section
variable {m : Byte} {l : List Byte} {p i : Nat}

/-- The scan stops at the first pattern. -/
theorem syncScan_of_first (h : PatternIn m l i) (hfirst : ∀ j < i, ¬PatternIn m l j) :
    syncScan m l p = some (p + i) := by
  induction l generalizing p i with
  | nil => exact absurd h.1 (by simp)
  | cons b0 l ih =>
    cases l with
    | nil => exact absurd h.1 (by simp)
    | cons b1 rest =>
      unfold syncScan
      cases i with
      | zero => rw [if_pos (patternIn_cons_zero.mp h), Nat.add_zero]
      | succ i =>
        have hnot : ¬(b0 = 0xFF ∧ b1 &&& m = m) := mt patternIn_cons_zero.mpr (hfirst 0 (Nat.succ_pos i))
        rw [if_neg hnot,
          ih (patternIn_cons_succ.mp h) fun j hj => mt patternIn_cons_succ.mpr (hfirst (j + 1) (by omega))]
        congr 1
        omega

/-- Without a pattern the scan finds none. -/
theorem syncScan_of_none (h : ∀ j, ¬PatternIn m l j) : syncScan m l p = none := by
  cases hs : syncScan m l p with
  | none => rfl
  | some q =>
    induction l generalizing p with
    | nil => exact nomatch hs
    | cons b0 l ih =>
      cases l with
      | nil => exact nomatch hs
      | cons b1 rest =>
        unfold syncScan at hs
        rw [if_neg (mt patternIn_cons_zero.mpr (h 0))] at hs
        exact ih (fun j => mt patternIn_cons_succ.mpr (h (j + 1))) hs

end

section
variable {s : State} (hi : BrInv s)
include hi

/-- The stream is the whole source also after the sentinel (R23). -/
theorem stream_eq : s.stream = s.src.bytes := by
  unfold State.stream
  split
  · rename_i h
    rw [hi.eod h, List.take_length]
  · rfl

theorem syncFind_of_first {p : Nat} (hp : syncStart s ≤ p) (h : PatternAt s p)
    (hfirst : ∀ q, syncStart s ≤ q → q < p → ¬PatternAt s q) : syncFind s = some p := by
  have hsplit : syncStart s + (p - syncStart s) = p := by omega
  unfold syncFind
  rw [stream_eq hi, syncScan_of_first (i := p - syncStart s), hsplit]
  · rw [patternIn_drop, hsplit]
    exact h
  · exact fun j hj => mt patternIn_drop.mp (hfirst _ (by omega) (by omega))

theorem syncFind_of_none (h : ∀ q, syncStart s ≤ q → ¬PatternAt s q) : syncFind s = none := by
  unfold syncFind
  rw [stream_eq hi]
  exact syncScan_of_none fun j => mt patternIn_drop.mp (h _ (by omega))

/-- What `SYNC` finds lies at or after the rounded cursor, with both its bytes in the source. -/
theorem syncFind_inv {p : Nat} (h : syncFind s = some p) : syncStart s ≤ p ∧ p + 1 < s.src.bytes.length := by
  have hend := syncFind_bounds h
  rw [stream_eq hi] at hend
  exact ⟨(syncScan_bounds h).1, hend⟩

/-- The cursor lies in the source, rounded up as well (R24). -/
theorem syncStart_le : syncStart s ≤ s.src.bytes.length :=
  bytesFor_le_iff.mpr (hi.pos.trans (Nat.mul_le_mul_left 8 hi.pulled))

end

/-! ## The command (R186) -/

/-- Where `SYNC` ends when it has found a pattern at byte p. -/
def syncEnd (p : Nat) (s : State) : State := (pullTo (p + 2) (startCommand s)).withPos (8 * p)

/-- Where `SYNC` ends without a pattern. -/
def syncExhausted (s : State) : State :=
  let t := pullTo (max (syncStart s + 2) (s.src.bytes.length + 1)) (startCommand s)
  t.withPos (8 * t.br.pulled.toNat)

theorem syncEnd_eq (p : Nat) (s : State) :
    syncEnd p s = { startCommand s with br := (syncEnd p s).br, freeCtr := (syncEnd p s).freeCtr } := by
  unfold syncEnd
  rw [pullTo_eq]
  rfl

theorem syncExhausted_eq (s : State) :
    syncExhausted s = { startCommand s with br := (syncExhausted s).br, freeCtr := (syncExhausted s).freeCtr } := by
  unfold syncExhausted
  rw [pullTo_eq]
  rfl

section
variable {s : State} (hi : BrInv s) (hlen : 8 * s.src.bytes.length < 2 ^ 64)
include hi hlen

theorem runCommand_sync_found {p : Nat} (h : syncFind s = some p) :
    runCommand syncBody s = endCommand .ok 0 (syncEnd p s) := by
  obtain ⟨-, hp⟩ := syncFind_inv hi h
  have hstart : 8 * syncStart (startCommand s) < 2 ^ 64 :=
    Nat.lt_of_le_of_lt (Nat.mul_le_mul_left 8 (syncStart_le (s := startCommand s) (hi.congr rfl rfl))) hlen
  refine runCommand_of_returns ?_
  unfold syncBody
  simp only [ends_bind, ends_get, cursorCheck_ends]
  rw [if_pos hstart, show syncFind (startCommand s) = some p from h]
  simp only [ends_bind, cursorCheck_ends, ends_set, ends_pure]
  rw [if_pos (by omega)]
  exact ⟨trivial, rfl⟩

theorem runCommand_sync_exhausted (h : syncFind s = none) :
    runCommand syncBody s = endCommand .streamExhausted 0 (syncExhausted s) := by
  have hstart : 8 * syncStart (startCommand s) < 2 ^ 64 :=
    Nat.lt_of_le_of_lt (Nat.mul_le_mul_left 8 (syncStart_le (s := startCommand s) (hi.congr rfl rfl))) hlen
  have hstream : 8 * (startCommand s).stream.length < 2 ^ 64 :=
    (congrArg (fun l : List Byte => 8 * l.length) (stream_eq hi)).trans_lt hlen
  refine runCommand_of_raises ?_
  unfold syncBody
  simp only [ends_bind, ends_get, cursorCheck_ends]
  rw [if_pos hstart, show syncFind (startCommand s) = none from h]
  simp only [ends_bind, cursorCheck_ends, ends_set, ends_throw]
  rw [if_pos hstream]
  exact ⟨trivial, rfl⟩

/-- A found pattern is pulled and the cursor stands before it. -/
theorem syncEnd_inv {p : Nat} (hp : p + 1 < s.src.bytes.length) :
    BrInv (syncEnd p s) ∧ (syncEnd p s).br.pos.toNat = 8 * p ∧ p + 2 ≤ (syncEnd p s).br.pulled.toNat := by
  obtain ⟨hinv, -, hpull⟩ := pullTo_inv (need := p + 2) (s := startCommand s) (hi.congr rfl rfl) (by omega)
  have hcover : p + 2 ≤ (pullTo (p + 2) (startCommand s)).br.pulled.toNat := by
    obtain h | ⟨-, h⟩ := hpull
    · exact h
    · rw [h]; exact hp
  exact ⟨brInv_withPos hinv (by omega), Nat.mod_eq_of_lt (by omega), hcover⟩

/-- Without prefetch no more than the pattern is pulled, and no sentinel is met (R84). -/
theorem syncEnd_exact {p : Nat} (hp : p + 1 < s.src.bytes.length) (hpre : s.cfg.brPrefetch = 0) :
    (syncEnd p s).br.pulled.toNat = max s.br.pulled.toNat (p + 2) ∧ (syncEnd p s).br.eod = s.br.eod := by
  have hpulled := hi.pulled
  show (pullTo (p + 2) (startCommand s)).br.pulled.toNat = _ ∧ (pullTo (p + 2) (startCommand s)).br.eod = _
  by_cases h : s.br.eod = true ∨ p + 2 ≤ s.br.pulled.toNat
  · rw [pullTo_same (s := startCommand s) h]
    refine ⟨(Nat.max_eq_left ?_).symm, rfl⟩
    obtain h | h := h
    · show p + 2 ≤ s.br.pulled.toNat
      rw [hi.eod h]
      omega
    · exact h
  · have hwant : wanted (p + 2) (startCommand s) = p + 2 := by
      have hpre' : prefetch (startCommand s) = 0 := by
        show min s.cfg.brPrefetch _ = 0
        rw [hpre, Nat.zero_min]
      unfold wanted
      omega
    rw [pullTo_br (s := startCommand s) h, hwant]
    simp only [not_or, Bool.not_eq_true, Nat.not_le] at h
    refine ⟨?_, (decide_eq_false (Nat.not_lt.mpr hp)).trans h.1.symm⟩
    rw [BitVec.toNat_ofNat, Nat.max_eq_right (Nat.le_of_lt h.2)]
    show min (p + 2) s.src.bytes.length % _ = _
    omega

/-- Without a pattern everything is pulled and consumed. -/
theorem syncExhausted_inv :
    BrInv (syncExhausted s) ∧ (syncExhausted s).br.pos.toNat = 8 * s.src.bytes.length ∧
      (syncExhausted s).br.pulled.toNat = s.src.bytes.length ∧ (syncExhausted s).br.eod = true := by
  have hstart := syncStart_le hi
  obtain ⟨hinv, -, hpull⟩ := pullTo_inv (need := max (syncStart s + 2) (s.src.bytes.length + 1)) (s := startCommand s)
    (hi.congr rfl rfl) (by omega)
  unfold syncExhausted
  dsimp only
  have hle := hinv.pulled
  rw [(pullTo_frame _ _).src] at hle
  generalize pullTo (max (syncStart s + 2) (s.src.bytes.length + 1)) (startCommand s) = t at hinv hpull hle ⊢
  obtain h | ⟨heod, hpulled⟩ := hpull
  · exact absurd (h.trans hle) (by show ¬ _ ≤ s.src.bytes.length; omega)
  · replace hpulled : t.br.pulled.toNat = s.src.bytes.length := hpulled
    refine ⟨brInv_withPos hinv (Nat.le_refl _), ?_, hpulled, heod⟩
    rw [hpulled]
    exact Nat.mod_eq_of_lt hlen

end

/-- Settles O12: `SYNC` ends at what the scan finds. -/
theorem syncFindsTheFirstPattern : Obligations.SyncFindsTheFirstPattern := by
  unfold Obligations.SyncFindsTheFirstPattern
  refine ⟨fun p s hi hlen hp hat hfirst => ?_, fun s hi hlen hnone => ?_⟩
  · obtain ⟨-, hpos, hcover⟩ := syncEnd_inv hi hlen hat.1
    have heq := syncEnd_eq p s
    refine ⟨_, congrArg Host.Outcome.next (runCommand_sync_found hi hlen (syncFind_of_first hi hp hat hfirst)),
      ended_endCommand ?_ ?_ ?_, hpos, hcover, syncEnd_exact hi hlen hat.1, ?_⟩ <;> rw [heq] <;> rfl
  · obtain ⟨-, hpos, hpulled, heod⟩ := syncExhausted_inv hi hlen
    have heq := syncExhausted_eq s
    refine ⟨_, congrArg Host.Outcome.next (runCommand_sync_exhausted hi hlen (syncFind_of_none hi hnone)),
      ended_endCommand ?_ ?_ ?_, hpos, hpulled, heod, ?_⟩ <;> rw [heq] <;> rfl

end Sys2Proof.Machine
end

section
/-! PROOFS. `PARSE_HEADER` on the header word at the cursor, and `NEXT_HEADER`, which looks for one that is accepted
(R161, R187, R201, R458). -/

-- One theorem after another: threads that wait for each other exhaust the memory limit with their stacks.
set_option Elab.async false

namespace Sys2Proof.Machine

open Act

/-! ## The result code of a header word (R201, R203) -/

/-- The code with which `PARSE_HEADER` ends a header word of a row. -/
def rowCode : HeaderClass → Code
  | .noSync => .invalidSync
  | .rsvVersion | .rsvLayer | .rsvBitrate | .rsvRate => .reservedValue
  | .freeFormat => .freeFormatUnsupported
  | .layer1 | .layer2 | .layer3 => .ok

theorem rowCode_eq_ok_iff {c : HeaderClass} : rowCode c = .ok ↔ c ∈ [.layer1, .layer2, .layer3] := by
  cases c <;> decide

/-- `SyncOk` on the bits of a word: its first `SYNC_BITS` bits are ones. -/
theorem syncOk_splitHeader (sb : SyncBits) (w : HeaderWord) :
    syncOk sb (splitHeader w) = match sb with
      | .eleven => w.extractLsb' 21 11 == 0x7FF
      | .twelve => w.extractLsb' 20 12 == 0xFFF := by
  cases sb with
  | eleven => rfl
  | twelve =>
    have hbit : w.getLsbD 20 = true ↔ w.toNat / 2 ^ 20 % 2 = 1 := by
      rw [BitVec.getLsbD, Nat.testBit_eq_decide_div_mod_eq, decide_eq_true_iff]
    have hfield : w.extractLsb' 21 11 = 0x7FF ∧ w.toNat / 2 ^ 20 % 2 = 1 ↔ w.extractLsb' 20 12 = 0xFFF := by
      simp only [← BitVec.toNat_inj, BitVec.extractLsb'_toNat, Nat.shiftRight_eq_div_pow]
      have h11 : (0x7FF : BitVec 11).toNat = 2047 := rfl
      have h12 : (0xFFF : BitVec 12).toNat = 4095 := rfl
      rw [h11, h12]
      omega
    have hversion : (w.extractLsb' 19 2).getLsbD 1 = w.getLsbD 20 := by simp
    rw [Bool.eq_iff_iff, beq_iff_eq, ← hfield, ← hbit, ← hversion]
    simp only [syncOk, splitHeader, Bool.and_eq_true, beq_iff_eq]

theorem headerVerdict_eq (sb : SyncBits) (w : HeaderWord) :
    headerVerdict sb w = rowCode (headerClass sb (splitHeader w)) := by
  unfold headerVerdict headerClass
  simp only [apply_ite rowCode, syncOk_splitHeader]
  simp only [rowCode, ite_self]
  cases sb <;> simp only [splitHeader, bne] <;> split_ifs <;> simp_all

/-! ## PARSE_HEADER within the bit address space (R201, R202) -/

/-- The 32 bits at the cursor. -/
def wordAt (s : State) : HeaderWord := BitVec.ofNat 32 (bitsAt s.src.bytes s.br.pos.toNat 32)

/-- The tests of R201 end with the code of the word's row. -/
theorem judgeHeader_ends {Q : Unit → State → Prop} {E : Code → State → Prop} (h : HeaderFields) (start : BitVec 64)
    (s : State) :
    Ends (judgeHeader h start) Q E s ↔
      if rowCode (headerClass s.cfg.syncBits h) = .ok then Q () (acceptHeader h start s)
      else E (rowCode (headerClass s.cfg.syncBits h)) ((clearHeader s).withPos (start.toNat + 8)) := by
  unfold judgeHeader
  rw [ends_bind, ends_get]
  cases headerClass s.cfg.syncBits h <;> simp only [rowCode, ends_modify, reduceCtorEq, if_true, if_false]
  all_goals exact Act.ends_iff_of_error rfl

section
variable {s : State} (hi : BrInv s) (hp : s.br.pos.toNat + 32 < 2 ^ 64)
include hi hp

/-- With a header word at the cursor `PARSE_HEADER` accepts it, or refuses it with the cursor 8 bits after its start; r
is the state in which the word has been read. -/
theorem runCommand_parseHeader (hn : s.br.pos.toNat + 32 ≤ 8 * s.src.bytes.length) :
    ∃ r, BrInv r ∧ r.br.pos = s.br.pos + 32 ∧
      r = { startCommand s with hdr := { s.hdr with valid := false }, br := r.br, freeCtr := r.freeCtr } ∧
      runCommand parseHeaderBody s =
        if headerVerdict s.cfg.syncBits (wordAt s) = .ok then
          endCommand .ok (wordAt s) (acceptHeader (splitHeader (wordAt s)) s.br.pos r)
        else
          endCommand (headerVerdict s.cfg.syncBits (wordAt s)) 0 ((clearHeader r).withPos (s.br.pos.toNat + 8)) := by
  obtain ⟨r, hread, hr, hpos, heq⟩ := readBits_ok (s := (startCommand s).withHdr { s.hdr with valid := false })
    (hi.congr rfl rfl) hp hn
  have hcfg : r.cfg = s.cfg := by rw [heq]; rfl
  refine ⟨r, hr, hpos, heq, ?_⟩
  have hbody (Q : BitVec 32 → State → Prop) (E : Code → State → Prop) : Ends parseHeaderBody Q E (startCommand s) ↔
      if headerVerdict s.cfg.syncBits (wordAt s) = .ok then
        Q (wordAt s) (acceptHeader (splitHeader (wordAt s)) s.br.pos r)
      else E (headerVerdict s.cfg.syncBits (wordAt s)) ((clearHeader r).withPos (s.br.pos.toNat + 8)) := by
    unfold parseHeaderBody
    simp only [ends_bind, ends_get, cursorCheck_ends, ends_modify, ends_pure]
    rw [if_pos (show (startCommand s).br.pos.toNat + 32 < 2 ^ 64 from hp)]
    refine (Act.ends_iff_of_ok (fetchHeader_of_ok hread)).trans ?_
    rw [judgeHeader_ends, headerVerdict_eq, hcfg]
    rfl
  split
  · refine runCommand_of_returns ((hbody _ _).mpr ?_)
    rw [if_pos ‹_›]
    exact ⟨rfl, rfl⟩
  · refine runCommand_of_raises ((hbody _ _).mpr ?_)
    rw [if_neg ‹_›]
    exact ⟨rfl, rfl⟩

theorem runCommand_parseHeader_exhausted (hn : 8 * s.src.bytes.length < s.br.pos.toNat + 32) :
    ∃ t, runCommand parseHeaderBody s = endCommand .streamExhausted 0 t := by
  have hread := readBits_exhausted (s := (startCommand s).withHdr { s.hdr with valid := false })
    (hi.congr rfl rfl) hp hn
  refine ⟨_, runCommand_of_raises (t := clearHeader (pullTo (bytesFor (s.br.pos.toNat + 32))
    ((startCommand s).withHdr { s.hdr with valid := false }))) ?_⟩
  unfold parseHeaderBody
  simp only [ends_bind, ends_get, cursorCheck_ends, ends_modify, ends_pure]
  rw [if_pos (show (startCommand s).br.pos.toNat + 32 < 2 ^ 64 from hp)]
  exact (Act.ends_iff_of_error (fetchHeader_of_error hread)).mpr ⟨rfl, rfl⟩

end

/-! ## NEXT_HEADER (R161, R187) -/

/-- t holds an accepted header just before its cursor, which stands in the source of s at or after the cursor of s, at a
byte. -/
structure HeaderFound (s t : State) : Prop where
  code : t.st.code = 0
  valid : t.hdr.valid = true
  cursor : t.br.pos = t.hdr.start + 32
  row : headerClass s.cfg.syncBits (splitHeader t.hdr.word) ∈ [.layer1, .layer2, .layer3]
  after : s.br.pos.toNat ≤ t.hdr.start.toNat
  byte : t.hdr.start.toNat % 8 = 0
  word : t.hdr.word = BitVec.ofNat 32 (bitsAt s.src.bytes t.hdr.start.toNat 32)

/-- A header found from a later place of the same source is found. -/
theorem HeaderFound.of_later {s u t : State} (h : HeaderFound u t) (hsrc : u.src = s.src) (hcfg : u.cfg = s.cfg)
    (hpos : s.br.pos.toNat ≤ u.br.pos.toNat) : HeaderFound s t :=
  ⟨h.code, h.valid, h.cursor, hcfg ▸ h.row, hpos.trans h.after, h.byte, hsrc ▸ h.word⟩

/-- A code of a refused header is neither `OK` nor `StreamExhausted`. -/
theorem headerVerdict_refused {sb : SyncBits} {w : HeaderWord} (h : headerVerdict sb w ≠ .ok) :
    (headerVerdict sb w).toByte ≠ 0 ∧ (headerVerdict sb w).toByte ≠ Code.streamExhausted.toByte := by
  rw [headerVerdict_eq] at h ⊢
  revert h
  cases headerClass sb (splitHeader w) <;> decide

/-- A command ended neither with `OK` nor with `StreamExhausted`. -/
def Refused (t : State) : Prop := ¬(t.st.code = 0 ∨ t.st.code = Code.streamExhausted.toByte)

/-- What `NEXT_HEADER` does after a `PARSE_HEADER` that ended in t: it ends, or begins the next round. -/
def afterParse (fuel : Nat) (t : State) : State :=
  if t.st.code = 0 ∨ t.st.code = Code.streamExhausted.toByte then t else nextHeaderLoop fuel (eqBoundary t)

section
variable {s : State} (hi : BrInv s) (hlen : s.src.bytes.length < 2 ^ 60)
include hi hlen

/-- `PARSE_HEADER` at a byte of the source accepts, meets the end of the stream, or moves the cursor on by a byte. -/
theorem parseHeader_cases (hbyte : s.br.pos.toNat % 8 = 0) :
    HeaderFound s (runCommand parseHeaderBody s) ∨
      (runCommand parseHeaderBody s).st.code = Code.streamExhausted.toByte ∨
      Refused (runCommand parseHeaderBody s) ∧ BrInv (runCommand parseHeaderBody s) ∧
        (runCommand parseHeaderBody s).br.pos.toNat = s.br.pos.toNat + 8 ∧
        (runCommand parseHeaderBody s).src = s.src ∧ (runCommand parseHeaderBody s).cfg = s.cfg := by
  have hpos := hi.pos
  have hpulled := hi.pulled
  have hp : s.br.pos.toNat + 32 < 2 ^ 64 := by omega
  by_cases hn : s.br.pos.toNat + 32 ≤ 8 * s.src.bytes.length
  · obtain ⟨r, hr, hrpos, hreq, hrun⟩ := runCommand_parseHeader hi hp hn
    by_cases hok : headerVerdict s.cfg.syncBits (wordAt s) = .ok
    · rw [hrun, if_pos hok]
      have hword : joinHeader (splitHeader (wordAt s)) = wordAt s := join_split _
      have hrow := rowCode_eq_ok_iff.mp ((headerVerdict_eq _ _).symm.trans hok)
      refine .inl ⟨rfl, rfl, hrpos, ?_, Nat.le_refl _, hbyte, hword⟩
      show headerClass s.cfg.syncBits (splitHeader (joinHeader _)) ∈ _
      rwa [hword]
    · obtain ⟨hcode, hcode'⟩ := headerVerdict_refused hok
      have hcover := hr.pos
      have hrpos' : r.br.pos.toNat = s.br.pos.toNat + 32 := by rw [hrpos]; bv_omega
      rw [hrun, if_neg hok]
      refine .inr (.inr ⟨not_or.mpr ⟨hcode, hcode'⟩, ?_, Nat.mod_eq_of_lt (by omega), ?_, ?_⟩)
      · exact BrInv.congr (brInv_withPos (hr.congr (t := clearHeader r) rfl rfl)
          (show s.br.pos.toNat + 8 ≤ 8 * r.br.pulled.toNat by omega)) rfl rfl
      · show r.src = s.src
        rw [hreq]; rfl
      · show r.cfg = s.cfg
        rw [hreq]; rfl
  · obtain ⟨t, ht⟩ := runCommand_parseHeader_exhausted hi hp (Nat.not_le.mp hn)
    rw [ht]
    exact .inr (.inl rfl)

/-- A round without a pattern is the last. -/
theorem nextHeaderLoop_of_none (fuel : Nat) (h : syncFind s = none) :
    (nextHeaderLoop (fuel + 1) s).st.code = Code.streamExhausted.toByte := by
  unfold nextHeaderLoop
  rw [runCommand_sync_exhausted hi (by omega) h]
  rfl

/-- A round that finds a pattern at byte p is a `PARSE_HEADER` in the state u there, after the boundary of `EQW`. -/
theorem nextHeaderLoop_of_some (fuel : Nat) {p : Nat} (h : syncFind s = some p) :
    ∃ u, BrInv u ∧ u.br.pos.toNat = 8 * p ∧ u.src = s.src ∧ u.cfg = s.cfg ∧ u.cp.ops = s.cp.ops ∧
      u.cp.results.length = s.cp.results.length + 1 ∧
      nextHeaderLoop (fuel + 1) s = afterParse fuel (runCommand parseHeaderBody u) := by
  obtain ⟨hinv, hpos, -⟩ := syncEnd_inv hi (by omega) (syncFind_inv hi h).2
  have hrun := runCommand_sync_found hi (by omega) h
  have heq := syncEnd_eq p s
  have hw := eqw_boundary (endCommand .ok 0 (syncEnd p s))
  refine ⟨_, BrInv.congr hinv hw.br hw.src, ?_, ?_, ?_, ?_, ?_, ?_⟩
  · rw [hw.br]; exact hpos
  · rw [hw.src, heq]; rfl
  · rw [hw.cfg, heq]; rfl
  · rw [hw.cp, heq]; rfl
  · rw [hw.cp, heq]; rfl
  · unfold nextHeaderLoop
    rw [hrun]
    exact if_neg fun h => h rfl

/-- `NEXT_HEADER` with more rounds than bytes ahead ends (R161). -/
theorem nextHeaderLoop_ends {fuel : Nat} (hfuel : s.src.bytes.length < syncStart s + fuel) :
    HeaderFound s (nextHeaderLoop fuel s) ∨ (nextHeaderLoop fuel s).st.code = Code.streamExhausted.toByte := by
  induction fuel generalizing s with
  | zero => exact absurd (syncStart_le hi) (by omega)
  | succ fuel ih =>
    cases hf : syncFind s with
    | none => exact .inr (nextHeaderLoop_of_none hi hlen fuel hf)
    | some p =>
      obtain ⟨u, hu, hpos, hsrc, hcfg, -, -, hround⟩ := nextHeaderLoop_of_some hi hlen fuel hf
      have hstart := (syncFind_inv hi hf).1
      have hlater : s.br.pos.toNat ≤ u.br.pos.toNat := by
        rw [hpos]
        exact (bytesFor_le _).trans (Nat.mul_le_mul_left 8 hstart)
      rw [hround, afterParse]
      obtain hfound | hend | ⟨hrefused, hinv, hpos', hsrc', hcfg'⟩ :=
        parseHeader_cases hu (by rwa [hsrc]) (by omega)
      · rw [if_pos (.inl hfound.code)]
        exact .inl (hfound.of_later hsrc hcfg hlater)
      · rw [if_pos (.inr hend)]
        exact .inr hend
      · rw [if_neg hrefused]
        have hw := eqw_boundary (runCommand parseHeaderBody u)
        generalize eqBoundary (runCommand parseHeaderBody u) = v at hw ⊢
        have hvsrc : v.src = s.src := hw.src.trans (hsrc'.trans hsrc)
        have hvpos : v.br.pos.toNat = 8 * (p + 1) := by rw [hw.br, hpos', hpos]; rfl
        have hvstart : syncStart v = p + 1 := by unfold syncStart bytesFor; omega
        obtain hfound | hend := ih (hinv.congr hw.br hw.src) (by rwa [hvsrc]) (by rw [hvsrc, hvstart]; omega)
        · exact .inl (hfound.of_later hvsrc (hw.cfg.trans (hcfg'.trans hcfg)) (by omega))
        · exact .inr hend

end

/-- Settles O46: the rounds end, the first one if its header is accepted, and `DECODE_NEXT` is its two commands. -/
theorem nextHeaderEnds : Obligations.NextHeaderEnds := by
  unfold Obligations.NextHeaderEnds
  refine ⟨fun s hi hlen => ⟨_, rfl, ?_⟩, fun p s hi hlen hp hat hfirst hn hok => ⟨_, rfl, ?_⟩,
    fun s => ⟨_, _, rfl, rfl, rfl⟩⟩
  · refine (nextHeaderLoop_ends hi hlen (by omega)).imp_left fun h => ?_
    exact ⟨h.code, h.valid, h.cursor, h.row, h.after, h.byte, h.word⟩
  · obtain ⟨u, hu, hpos, hsrc, hcfg, hops, hresults, hround⟩ :=
      nextHeaderLoop_of_some hi hlen s.src.bytes.length (syncFind_of_first hi hp hat hfirst)
    obtain ⟨r, -, hrpos, hreq, hrun⟩ := runCommand_parseHeader hu (by omega) (by rw [hsrc]; omega)
    have hword : wordAt u = BitVec.ofNat 32 (bitsAt s.src.bytes (8 * p) 32) := by rw [wordAt, hsrc, hpos]
    rw [← hword, ← hcfg] at hok
    rw [← hword]
    rw [if_pos hok] at hrun
    unfold nextHeader
    rw [hround, hrun, afterParse, if_pos (.inl rfl)]
    have hstart : BitVec.ofNat 64 (8 * p) = u.br.pos := by rw [← hpos, BitVec.ofNat_toNat, BitVec.setWidth_eq]
    have hjoin : joinHeader (splitHeader (wordAt u)) = wordAt u := join_split _
    have hcp : r.cp = u.cp := by rw [hreq]; rfl
    have hlsf : r.cfg.lsfHalveL2 = s.cfg.lsfHalveL2 := by rw [hreq, ← hcfg]; rfl
    refine ⟨rfl, ?_, ?_, ?_, ?_, ?_⟩
    · show r.br.pos.toNat = _
      rw [hrpos]
      bv_omega
    · rw [hstart]
      exact congrArg (Hdr.mk · u.br.pos true) hjoin
    · show headerFrm r.cfg.lsfHalveL2 _ _ = headerFrm s.cfg.lsfHalveL2 (splitHeader (joinHeader _)) _
      rw [hlsf, split_join]
      rfl
    · exact (congrArg CommandPort.ops hcp).trans hops
    · exact congrArg (· + 1) ((congrArg (fun c : CommandPort => c.results.length) hcp).trans hresults)

end Sys2Proof.Machine
end

section
/-! PROOFS. `SET_EQUALIZER` with `EQW` idle (R161, R239). -/

-- One theorem after another: threads that wait for each other exhaust the memory limit with their stacks.
set_option Elab.async false

namespace Sys2Proof.Machine

/-! ## The 32 EQ_SETBAND (R232, R239) -/

/-- What band i holds after an `EQ_SETBAND` of it with w in s: the clamped value, if it is a number. -/
def bandAfter (s : State) (i : Nat) (w : BitVec 32) : Sample :=
  if Num.isNaN (bandValue s w) then rd s.eq i else clampUnit (bandValue s w)

/-- From s to t n commands ended on the command port, which changed at most equalizer values: those of the bands below
n, by the values v. -/
structure BandsSet (v : Vector (BitVec 32) 32) (n : Nat) (s t : State) : Prop where
  bands : ∀ i < 32, rd t.eq i = if i < n then bandAfter s i (rd v i) else rd s.eq i
  gerr : t.st.gerr = s.st.gerr
  ops : t.cp.ops = s.cp.ops
  results : t.cp.results.length = s.cp.results.length + n
  frame : t = { s with eq := t.eq, st := t.st, cp := t.cp }

theorem toNat_band {n : Nat} (h : n < 32) : (BitVec.ofNat 8 n).toNat = n := Nat.mod_eq_of_lt (by omega)

/-- One `EQ_SETBAND` on the command port: its band, and a result word. -/
theorem runCommand_setband {n : Nat} (hn : n < 32) (w : BitVec 32) (s : State) :
    ∃ t, runCommand (eqSetbandBody (BitVec.ofNat 8 n) w) s = t ∧
      (∀ i < 32, rd t.eq i = if i = n then bandAfter s n w else rd s.eq i) ∧ t.st.gerr = s.st.gerr ∧
      t.cp.ops = s.cp.ops ∧ t.cp.results.length = s.cp.results.length + 1 ∧
      t = { s with eq := t.eq, st := t.st, cp := t.cp } := by
  unfold bandAfter
  cases hnan : Num.isNaN (bandValue s w) with
  | true =>
    have hrun := Host.Outcome.next.inj (exec_eqSetband_refused (band := BitVec.ofNat 8 n) (.inr hnan))
    refine ⟨_, hrun, fun i _ => ?_, rfl, rfl, rfl, rfl⟩
    split
    · rename_i h; rw [h]; rfl
    · rfl
  | false =>
    have hrun := Host.Outcome.next.inj (exec_eqSetband_ok (band := BitVec.ofNat 8 n) (by rwa [toNat_band hn]) hnan)
    refine ⟨_, hrun, fun i hi => ?_, rfl, rfl, rfl, rfl⟩
    show rd (wr s.eq (BitVec.ofNat 8 n).toNat _) i = _
    rw [toNat_band hn, rd_wr]
    simp [hi, eq_comm]

/-- One band more. -/
theorem BandsSet.succ {v : Vector (BitVec 32) 32} {n : Nat} {s t : State} (h : BandsSet v n s t) (hn : n < 32) :
    BandsSet v (n + 1) s (runCommand (eqSetbandBody (BitVec.ofNat 8 n) (rd v n)) t) := by
  obtain ⟨u, hu, hbands, hgerr, hops, hresults, hframe⟩ := runCommand_setband hn (rd v n) t
  rw [hu]
  have hvalue : bandAfter t n (rd v n) = bandAfter s n (rd v n) := by
    have hcfg : t.cfg = s.cfg := by rw [h.frame]
    have hold : rd t.eq n = rd s.eq n := (h.bands n hn).trans (if_neg (Nat.lt_irrefl n))
    unfold bandAfter bandValue
    rw [hcfg, hold]
  refine ⟨fun i hi => ?_, hgerr.trans h.gerr, hops.trans h.ops, by rw [hresults, h.results]; rfl, ?_⟩
  · rw [hbands i hi, h.bands i hi, hvalue]
    by_cases hin : i = n
    · subst hin; simp
    · simp only [hin, if_false]
      exact if_congr (by omega) rfl rfl
  · rw [hframe, h.frame]

/-- With `EQW` idle the 32 commands set their bands. -/
theorem setBands_bandsSet (v : Vector (BitVec 32) 32) {s : State} (hidle : s.ep.schedule = []) :
    BandsSet v 32 s (setBands v s) := by
  have hstart : BandsSet v 0 s s := ⟨fun _ _ => rfl, rfl, rfl, rfl, rfl⟩
  refine loop_induct (P := fun n t => BandsSet v (n + 1) s t) (hstart.succ (by decide)) fun n t hn ht => ?_
  have hep : t.ep.schedule = [] := by rw [ht.frame]; exact hidle
  rw [thenCommand, eqBoundary_idle hep]
  exact ht.succ (by omega)

/-- Settles O38: the bands are set one by one, and one `EQ_APPLY` writes the filters. -/
theorem setEqualizerSetsEveryBand : Obligations.SetEqualizerSetsEveryBand := by
  unfold Obligations.SetEqualizerSetsEveryBand
  intro v s hidle
  have hset := setBands_bandsSet v hidle
  have hep : (setBands v s).ep.schedule = [] := by rw [hset.frame]; exact hidle
  have hcfg : (setBands v s).cfg = s.cfg := by rw [hset.frame]
  have hsf : (setBands v s).sf = s.sf := by rw [hset.frame]
  have hexec : exec (.setEqualizer v) s = exec .eqApply (setBands v s) := by
    show Host.Outcome.next (thenCommand eqApplyBody (setBands v s)) = _
    rw [thenCommand, eqBoundary_idle hep]
    rfl
  obtain ⟨t, happly, hended, hright, hhistory, hquiet, hframe⟩ := applyWritesBothFilters (setBands v s)
  obtain ⟨heq, htep, hleft⟩ := hquiet hep
  rw [hcfg] at hright hleft
  refine ⟨t, hexec.trans happly, ?_, ?_, ?_, ?_, fun i hi => ?_, fun ch hch => ⟨?_, fun i hi => ?_⟩, ?_, ?_, ?_⟩
  · rw [hended.st]; rfl
  · rw [hended.st]
  · rw [hended.st]
  · rw [hended.st]; exact hset.gerr
  · rw [heq, hset.bands i hi, if_pos hi]; rfl
  · rw [hhistory ch hch, hsf]
  · obtain rfl | rfl : ch = 0 ∨ ch = 1 := by omega
    · rw [hleft i hi, heq]
    · exact hright i hi
  · rw [hended.cp]; exact hset.ops
  · rw [hended.cp, List.length_cons, hset.results]
  · rw [hframe, htep, hset.frame]

end Sys2Proof.Machine
end

section
/-! PROOFS. Reading the frame body field by field, and loops over rows and columns (R184). -/

-- One theorem after another: threads that wait for each other exhaust the memory limit with their stacks.
set_option Elab.async false

namespace Sys2Proof.Machine

open Act

/-! ## Fields of the frame body (R184) -/

/-- A field of n bits fits n bits. -/
theorem toNat_bitsAt (n : Nat) (bytes : List Byte) (p : Nat) :
    (BitVec.ofNat n (bitsAt bytes p n)).toNat = bitsAt bytes p n :=
  Nat.mod_eq_of_lt (bitsAt_lt bytes p n)

/-- The state with the cursor of the frame buffer at bit p. -/
def State.atBit (s : State) (p : Nat) : State := s.withFb { s.fb with pos := BitVec.ofNat 32 p }

/-- The bits of the frame body. -/
def State.fbSize (s : State) : Nat := 8 * s.fb.bytes.length

section
variable (s : State) (p q : Nat)

@[simp] theorem atBit_atBit : (s.atBit p).atBit q = s.atBit q := rfl

/-- The cursor is where it is. -/
theorem atBit_self : s.atBit s.fb.pos.toNat = s := by
  unfold State.atBit
  rw [BitVec.ofNat_toNat, BitVec.setWidth_eq]
  rfl

end

section
variable {α β : Type} {s : State} {p n : Nat} {E : Code → State → Prop}

theorem fbBits_atBit_ends {Q : Nat → State → Prop} (hp : p < 2 ^ 32) :
    Ends (fbBits n) Q E (s.atBit p) ↔
      if s.fbSize < p + n then E .streamExhausted (s.atBit p) else Q (bitsAt s.fb.bytes p n) (s.atBit (p + n)) := by
  have hpos : (s.atBit p).fb.pos.toNat = p := Nat.mod_eq_of_lt hp
  rw [fbBits_ends, hpos]
  rfl

/-- The field of n bits at p, and what follows it. -/
theorem ends_read {k : Nat → Act β} {Q : β → State → Prop} (hp : p < 2 ^ 32)
    (hend : s.fbSize < p + n → E .streamExhausted (s.atBit p))
    (hk : p + n ≤ s.fbSize → Ends (k (bitsAt s.fb.bytes p n)) Q E (s.atBit (p + n))) :
    Ends (fbBits n >>= k) Q E (s.atBit p) := by
  rw [ends_bind, fbBits_atBit_ends hp]
  split
  · exact hend ‹_›
  · exact hk (Nat.not_lt.mp ‹_›)

/-- The frame body of s is in t, with the cursor at bit p. -/
def FbAt (s : State) (p : Nat) (t : State) : Prop := t.fb = { s.fb with pos := BitVec.ofNat 32 p }

theorem fbAt_self (s : State) : FbAt s s.fb.pos.toNat s := congrArg State.fb (atBit_self s).symm

section
variable {t u : State}

theorem FbAt.bytes (h : FbAt s p t) : t.fb.bytes = s.fb.bytes := by rw [h]

theorem FbAt.fbSize (h : FbAt s p t) : t.fbSize = s.fbSize := congrArg (fun l : List Byte => 8 * l.length) h.bytes

theorem FbAt.atBit_eq (h : FbAt s p t) : t.atBit p = t := by
  have hfb : { t.fb with pos := BitVec.ofNat 32 p } = t.fb := by rw [h]
  exact congrArg t.withFb hfb

theorem FbAt.congr (h : FbAt s p t) (hu : u.fb = t.fb) : FbAt s p u := hu.trans h

/-- The cursor has moved. -/
theorem FbAt.atBit (h : FbAt s p t) (q : Nat) : FbAt s q (t.atBit q) :=
  congrArg (FrameBuffer.mk · (BitVec.ofNat 32 q)) h.bytes

/-- The field of n bits at the cursor of t, and what follows it. -/
theorem FbAt.read {k : Nat → Act β} {Q : β → State → Prop} (h : FbAt s p t) (hp : p < 2 ^ 32)
    (hend : s.fbSize < p + n → E .streamExhausted t)
    (hk : p + n ≤ s.fbSize → Ends (k (bitsAt s.fb.bytes p n)) Q E (t.atBit (p + n))) : Ends (fbBits n >>= k) Q E t := by
  rw [← h.fbSize] at hend hk
  rw [← h.bytes] at hk
  rw [← h.atBit_eq] at hend ⊢
  exact ends_read hp hend hk

end

/-- The body takes n bits of the frame body, if they are there, and nothing else; its value is f of the bytes and the
place. -/
def Takes (a : Act α) (n : Nat) (f : List Byte → Nat → α) : Prop :=
  ∀ (s : State) (p : Nat) (Q : α → State → Prop) (E : Code → State → Prop), p < 2 ^ 32 → s.fbSize < 2 ^ 32 →
    (s.fbSize < p + n → ∀ t, E .streamExhausted t) → (p + n ≤ s.fbSize → Q (f s.fb.bytes p) (s.atBit (p + n))) →
    Ends a Q E (s.atBit p)

end

/-! ## Registers of rows and columns -/

section
variable {α : Type} [Inhabited α] {n m i j : Nat}

/-- What stands in row k and column l after the element in row i and column j has changed. -/
theorem rd_upd_upd (v : Vector (Vector α m) n) (hi : i < n) (hj : j < m) (f : α → α) (k l : Nat) :
    rd (rd (upd v i fun row => upd row j f) k) l = if i = k ∧ j = l then f (rd (rd v i) j) else rd (rd v k) l := by
  rw [rd_upd]
  by_cases hk : i = k
  · subst hk
    rw [if_pos ⟨rfl, hi⟩, rd_upd]
    by_cases hl : j = l
    · rw [if_pos ⟨hl, hl ▸ hj⟩, if_pos ⟨rfl, hl⟩]
    · rw [if_neg fun h => hl h.1, if_neg fun h => hl h.2]
  · rw [if_neg fun h => hk h.1, if_neg fun h => hk h.1]

end

/-! ## How a body ends -/

section
variable {α : Type} {a : Act α} {Q : α → State → Prop} {E : Code → State → Prop} {s : State}

/-- A body that cannot raise ends. -/
theorem Act.Ends.exists_ok (h : Ends a Q E s) (hE : ∀ e t, ¬ E e t) : ∃ v t, a s = .ok v t ∧ Q v t := by
  cases ha : a s with
  | ok v t => exact ⟨v, t, rfl, h.of_ok ha⟩
  | error e t => exact absurd (h.of_error ha) (hE e t)

/-- A body that cannot end raises. -/
theorem Act.Ends.exists_error (h : Ends a Q E s) (hQ : ∀ v t, ¬ Q v t) : ∃ e t, a s = .error e t ∧ E e t := by
  cases ha : a s with
  | ok v t => exact absurd (h.of_ok ha) (hQ v t)
  | error e t => exact ⟨e, t, rfl, h.of_error ha⟩

end

/-! ## Loops over rows and columns -/

/-- The rounds of two nested loops, row by row. -/
theorem ends_pairs {P : Nat → State → Prop} {E : Code → State → Prop} {g : Nat → Nat → Act Unit} {rows cols : Nat}
    {s : State} (h0 : P 0 s)
    (h : ∀ i < rows, ∀ j < cols, ∀ t, P (cols * i + j) t → Ends (g i j) (fun _ u => P (cols * i + j + 1) u) E t) :
    Ends (forEach rows fun i => forEach cols (g i)) (fun _ t => P (cols * rows) t) E s :=
  ends_forEach (P := fun i t => P (cols * i) t) h0 fun i hi _ ht =>
    ends_forEach (P := fun j t => P (cols * i + j) t) ht fun j hj u hu => h i hi j hj u hu

end Sys2Proof.Machine
end

section
/-! PROOFS. The side information of a Layer III frame (R140 to R143, R322). -/

-- One theorem after another: threads that wait for each other exhaust the memory limit with their stacks.
set_option Elab.async false

namespace Sys2Proof.Machine

open Act

/-! ## One granule record (R142, R143) -/

/-- The fields that follow a window-switching flag of 1, from bit w on. -/
def switchedAt (g : Granule) (bytes : List Byte) (w : Nat) : Granule :=
  let r0 := impliedRegion0 (bitsAt bytes w 2) (bitsAt bytes (w + 2) 1)
  { g with
    blockType := BitVec.ofNat 2 (bitsAt bytes w 2)
    mixedBlock := BitVec.ofNat 1 (bitsAt bytes (w + 2) 1)
    tableSelect := #v[BitVec.ofNat 5 (bitsAt bytes (w + 3) 5), BitVec.ofNat 5 (bitsAt bytes (w + 8) 5), 0]
    subblockGain := #v[BitVec.ofNat 3 (bitsAt bytes (w + 13) 3), BitVec.ofNat 3 (bitsAt bytes (w + 16) 3),
      BitVec.ofNat 3 (bitsAt bytes (w + 19) 3)]
    region0Count := BitVec.ofNat 4 r0
    region1Count := BitVec.ofNat 4 (20 - r0) }

/-- The fields that follow a window-switching flag of 0, from bit w on. -/
def unswitchedAt (g : Granule) (bytes : List Byte) (w : Nat) : Granule :=
  { g with
    blockType := 0
    mixedBlock := 0
    tableSelect := #v[BitVec.ofNat 5 (bitsAt bytes w 5), BitVec.ofNat 5 (bitsAt bytes (w + 5) 5),
      BitVec.ofNat 5 (bitsAt bytes (w + 10) 5)]
    subblockGain := #v[0, 0, 0]
    region0Count := BitVec.ofNat 4 (bitsAt bytes (w + 15) 4)
    region1Count := BitVec.ofNat 4 (bitsAt bytes (w + 19) 3) }

/-- The fields of the granule record at bit p up to the window-switching flag. -/
def recordHead (v1 : Bool) (bytes : List Byte) (p : Nat) : Granule :=
  let c := if v1 then 4 else 9
  { (default : Granule) with
    part23Length := BitVec.ofNat 12 (bitsAt bytes p 12)
    bigValues := BitVec.ofNat 9 (bitsAt bytes (p + 12) 9)
    globalGain := BitVec.ofNat 8 (bitsAt bytes (p + 21) 8)
    scalefacCompress := BitVec.ofNat 9 (bitsAt bytes (p + 29) c)
    windowSwitching := BitVec.ofNat 1 (bitsAt bytes (p + (29 + c)) 1) }

/-- The granule record at bit p. -/
def granuleAt (v1 : Bool) (bytes : List Byte) (p : Nat) : Granule :=
  let c := if v1 then 4 else 9
  { (if bitsAt bytes (p + (29 + c)) 1 = 1 then switchedAt (recordHead v1 bytes p) else
        unswitchedAt (recordHead v1 bytes p)) bytes (p + (30 + c)) with
    preflag := BitVec.ofNat 1 (if v1 then bitsAt bytes (p + 56) 1 else 0)
    scalefacScale := BitVec.ofNat 1 (bitsAt bytes (p + if v1 then 57 else 61) 1)
    count1TableSelect := BitVec.ofNat 1 (bitsAt bytes (p + if v1 then 58 else 62) 1) }

theorem takes_readSwitched (g : Granule) : Takes (readSwitched g) 22 (switchedAt g) := by
  intro s p Q E hp hsize hend hQ
  unfold readSwitched
  iterate 7 refine ends_read (by omega) (fun h => hend (by omega) _) fun h => ?_
  exact (ends_pure _).mpr (hQ h)

theorem takes_readUnswitched (g : Granule) : Takes (readUnswitched g) 22 (unswitchedAt g) := by
  intro s p Q E hp hsize hend hQ
  unfold readUnswitched
  iterate 5 refine ends_read (by omega) (fun h => hend (by omega) _) fun h => ?_
  exact (ends_pure _).mpr (hQ h)

theorem takes_readWindow (ws : Nat) (g : Granule) :
    Takes (readWindow ws g) 22 (if ws = 1 then switchedAt g else unswitchedAt g) := by
  unfold readWindow
  split
  · exact takes_readSwitched g
  · exact takes_readUnswitched g

/-- The bits of a granule record of a version. -/
def recordBits (v1 : Bool) : Nat := if v1 then 59 else 63

theorem takes_readGranule (v1 : Bool) : Takes (readGranule v1) (recordBits v1) (granuleAt v1) := by
  intro s p Q E hp hsize hend hQ
  unfold recordBits at hend hQ
  unfold readGranule
  cases v1
  all_goals
    simp only [if_true, if_false, Bool.false_eq_true] at hend hQ ⊢
    iterate 5 refine ends_read (by omega) (fun h => hend (by omega) _) fun h => ?_
    rw [ends_bind]
    refine takes_readWindow _ _ _ _ _ _ (by omega) hsize (fun h => hend (by omega)) fun h => ?_
  · rw [readPreflag, if_neg (by decide), ends_bind, ends_pure]
    iterate 2 refine ends_read (by omega) (fun h => hend (by omega) _) fun h => ?_
    exact (ends_pure _).mpr (hQ h)
  · rw [readPreflag, if_pos rfl]
    iterate 3 refine ends_read (by omega) (fun h => hend (by omega) _) fun h => ?_
    exact (ends_pure _).mpr (hQ h)

/-- What the switched fields must be (R142 order 6a to 6d, R143). -/
theorem switchedAt_spec (g : Granule) (bytes : List Byte) (w : Nat) :
    (switchedAt g bytes w).blockType.toNat = bitsAt bytes w 2 ∧
      (switchedAt g bytes w).mixedBlock.toNat = bitsAt bytes (w + 2) 1 ∧
      (rd (switchedAt g bytes w).tableSelect 0).toNat = bitsAt bytes (w + 3) 5 ∧
      (rd (switchedAt g bytes w).tableSelect 1).toNat = bitsAt bytes (w + 8) 5 ∧
      rd (switchedAt g bytes w).tableSelect 2 = 0 ∧
      (∀ i < 3, (rd (switchedAt g bytes w).subblockGain i).toNat = bitsAt bytes (w + 13 + 3 * i) 3) ∧
      (switchedAt g bytes w).region0Count =
        (if (switchedAt g bytes w).blockType = 2 ∧ (switchedAt g bytes w).mixedBlock = 0 then 8 else 7) ∧
      (switchedAt g bytes w).region1Count.toNat = 20 - (switchedAt g bytes w).region0Count.toNat := by
  refine ⟨toNat_bitsAt .., toNat_bitsAt .., toNat_bitsAt .., toNat_bitsAt .., rfl, fun i hi => ?_, ?_, ?_⟩
  · obtain rfl | rfl | rfl : i = 0 ∨ i = 1 ∨ i = 2 := by omega
    all_goals exact toNat_bitsAt ..
  · have h2 : bitsAt bytes w 2 = 2 ↔ BitVec.ofNat 2 (bitsAt bytes w 2) = 2 := by
      rw [← BitVec.toNat_inj, toNat_bitsAt]; rfl
    have h0 : bitsAt bytes (w + 2) 1 = 0 ↔ BitVec.ofNat 1 (bitsAt bytes (w + 2) 1) = 0 := by
      rw [← BitVec.toNat_inj, toNat_bitsAt]; rfl
    simp only [switchedAt, impliedRegion0, h2, h0]
    split <;> rfl
  · simp only [switchedAt, impliedRegion0]
    split <;> rfl

/-- What the fields of an unswitched granule must be (R142 order 6e to 6g). -/
theorem unswitchedAt_spec (g : Granule) (bytes : List Byte) (w : Nat) :
    (unswitchedAt g bytes w).blockType = 0 ∧ (unswitchedAt g bytes w).mixedBlock = 0 ∧
      (∀ i < 3, rd (unswitchedAt g bytes w).subblockGain i = 0) ∧
      (∀ i < 3, (rd (unswitchedAt g bytes w).tableSelect i).toNat = bitsAt bytes (w + 5 * i) 5) ∧
      (unswitchedAt g bytes w).region0Count.toNat = bitsAt bytes (w + 15) 4 ∧
      (unswitchedAt g bytes w).region1Count.toNat = bitsAt bytes (w + 19) 3 := by
  refine ⟨rfl, rfl, fun i hi => ?_, fun i hi => ?_, toNat_bitsAt .., ?_⟩
  · obtain rfl | rfl | rfl : i = 0 ∨ i = 1 ∨ i = 2 := by omega
    all_goals rfl
  · obtain rfl | rfl | rfl : i = 0 ∨ i = 1 ∨ i = 2 := by omega
    all_goals exact toNat_bitsAt ..
  · exact Nat.mod_eq_of_lt (Nat.lt_trans (bitsAt_lt bytes _ 3) (by decide))

/-- The fields of the record lie where R142 places them. -/
theorem granuleAt_spec (v1 : Bool) (bytes : List Byte) (p : Nat) : GranuleAt bytes p v1 (granuleAt v1 bytes p) := by
  have hcompress : (BitVec.ofNat 9 (bitsAt bytes (p + 29) (if v1 then 4 else 9))).toNat =
      bitsAt bytes (p + 29) (if v1 then 4 else 9) :=
    Nat.mod_eq_of_lt (Nat.lt_of_lt_of_le (bitsAt_lt ..) (by split <;> decide))
  have hpre : (BitVec.ofNat 1 (if v1 then bitsAt bytes (p + 56) 1 else 0)).toNat =
      if v1 then bitsAt bytes (p + 56) 1 else 0 := by
    cases v1
    · rfl
    · exact toNat_bitsAt ..
  have hc : 29 + (if v1 then 4 else 9) = if v1 then 33 else 38 := by cases v1 <;> rfl
  have hw : 30 + (if v1 then 4 else 9) = if v1 then 34 else 39 := by cases v1 <;> rfl
  have hflag : (recordHead v1 bytes p).windowSwitching.toNat = bitsAt bytes (p + if v1 then 33 else 38) 1 := by
    rw [← hc]
    exact toNat_bitsAt ..
  unfold granuleAt
  dsimp only
  rw [hc, hw]
  by_cases hws : bitsAt bytes (p + if v1 then 33 else 38) 1 = 1
  · rw [if_pos hws]
    refine ⟨toNat_bitsAt .., toNat_bitsAt .., toNat_bitsAt .., hcompress, hflag, fun _ w hw => ?_, fun h0 => ?_, hpre,
      toNat_bitsAt .., toNat_bitsAt ..⟩
    · subst hw
      exact switchedAt_spec (recordHead v1 bytes p) bytes _
    · have h1 : (recordHead v1 bytes p).windowSwitching = 1 := BitVec.eq_of_toNat_eq (hflag.trans hws)
      exact absurd (h1.symm.trans h0) (by decide)
  · rw [if_neg hws]
    refine ⟨toNat_bitsAt .., toNat_bitsAt .., toNat_bitsAt .., hcompress, hflag, fun h1 => ?_, fun _ w hw => ?_, hpre,
      toNat_bitsAt .., toNat_bitsAt ..⟩
    · exact absurd (hflag.symm.trans (congrArg BitVec.toNat h1)) hws
    · subst hw
      exact unswitchedAt_spec (recordHead v1 bytes p) bytes _

/-! ## The registers (R140, R141) -/

/-- t is s but for the side information, and has read the body of s up to bit p, which is in it. -/
structure SideRead (s : State) (p : Nat) (t : State) : Prop where
  frame : t = { s with fb := t.fb, tr := { s.tr with si := t.tr.si } }
  fb : FbAt s p t
  fits : p ≤ s.fbSize

/-- Fields up to bit q are stored. -/
theorem SideRead.set {s t : State} {p q : Nat} (h : SideRead s p t) (hq : q ≤ s.fbSize) (f : SideInfo → SideInfo) :
    SideRead s q (setSideInfo f (t.atBit q)) :=
  ⟨by rw [h.frame]; rfl, h.fb.atBit q, hq⟩

/-- The flag of channel c and group i after one was stored. -/
theorem scfsi_setScfsi {ch b c i : Nat} (hch : ch < 2) (hb : b < 4) (v : BitVec 1) (t : State) :
    rd (rd (setScfsi ch b v t).tr.si.scfsi c) i = if ch = c ∧ b = i then v else rd (rd t.tr.si.scfsi c) i :=
  rd_upd_upd t.tr.si.scfsi hch hb (fun _ => v) c i

/-- The granule record of granule r and channel c after one was stored. -/
theorem granule_setGranule {gr ch r c : Nat} (hgr : gr < 2) (hch : ch < 2) (g : Granule) (t : State) :
    (setGranule gr ch g t).granule r c = if gr = r ∧ ch = c then g else t.granule r c :=
  rd_upd_upd t.tr.si.g hgr hch (fun _ => g) r c

/-- The first n `scfsi` flags are read, from bit p on, and the others are 0; `main_data_begin` is m. -/
structure FlagsRead (s : State) (p : Nat) (m : BitVec 9) (n : Nat) (t : State) : Prop where
  side : SideRead s (p + n) t
  mainDataBegin : t.tr.si.mainDataBegin = m
  flag : ∀ ch < 2, ∀ i < 4, (rd (rd t.tr.si.scfsi ch) i).toNat =
    if 4 * ch + i < n then bitsAt s.fb.bytes (p + (4 * ch + i)) 1 else 0

/-- The first n granule records are read, from bit p on; the fields before them are those of s0. -/
structure RecordsRead (s s0 : State) (v1 : Bool) (nch p n : Nat) (t : State) : Prop where
  side : SideRead s (p + recordBits v1 * n) t
  mainDataBegin : t.tr.si.mainDataBegin = s0.tr.si.mainDataBegin
  scfsi : t.tr.si.scfsi = s0.tr.si.scfsi
  record : ∀ gr < 2, ∀ ch < nch, nch * gr + ch < n →
    t.granule gr ch = granuleAt v1 s.fb.bytes (p + recordBits v1 * (nch * gr + ch))

/-- The bits of the `scfsi` flags. -/
def scfsiBits (v1 : Bool) (nch : Nat) : Nat := if v1 then 4 * nch else 0

section
variable {s t : State} {v1 : Bool} {nch ngr p : Nat} {m : BitVec 9} {E : Code → State → Prop}

/-- `readScfsi`: every flag is the bit at its place. -/
theorem readScfsi_reads (hnch : nch ≤ 2) (hsize : s.fbSize < 2 ^ 32)
    (hend : s.fbSize < p + scfsiBits v1 nch → ∀ t, E .streamExhausted t) (h : FlagsRead s p m 0 t) :
    Ends (readScfsi v1 nch) (fun _ u => FlagsRead s p m (scfsiBits v1 nch) u) E t := by
  unfold readScfsi
  cases v1
  · exact (ends_pure _).mpr h
  refine ends_pairs h fun ch hch i hi u hu => ?_
  have hlast : 4 * ch + i + 1 ≤ scfsiBits true nch := by show _ ≤ 4 * nch; omega
  refine hu.side.fb.read (Nat.lt_of_le_of_lt hu.side.fits hsize) (fun h => hend (by omega) _) fun hfits => ?_
  refine (ends_modify _).mpr ⟨hu.side.set hfits _, hu.mainDataBegin, fun c hc j hj => ?_⟩
  rw [scfsi_setScfsi (by omega) hi]
  by_cases hcj : ch = c ∧ i = j
  · obtain ⟨rfl, rfl⟩ := hcj
    rw [if_pos ⟨rfl, rfl⟩, if_pos (Nat.lt_succ_self _)]
    exact toNat_bitsAt ..
  · rw [if_neg hcj]
    refine (hu.flag c hc j hj).trans (if_congr ?_ rfl rfl)
    omega

/-- `readGranules`: every record is what stands at its place. -/
theorem readGranules_reads {s0 : State} (hngr : ngr ≤ 2) (hnch : nch = 1 ∨ nch = 2) (hsize : s.fbSize < 2 ^ 32)
    (hend : s.fbSize < p + recordBits v1 * (nch * ngr) → ∀ t, E .streamExhausted t) (h : SideRead s p s0) :
    Ends (readGranules v1 ngr nch) (fun _ u => RecordsRead s s0 v1 nch p (nch * ngr) u) E s0 := by
  unfold readGranules
  refine ends_pairs ⟨h, rfl, rfl, fun _ _ _ _ h => absurd h (Nat.not_lt_zero _)⟩ fun gr hgr ch hch u hu => ?_
  have hlast : nch * gr + ch + 1 ≤ nch * ngr := by
    calc nch * gr + ch + 1 ≤ nch * gr + nch := by omega
      _ = nch * (gr + 1) := by ring
      _ ≤ nch * ngr := Nat.mul_le_mul_left _ hgr
  have hbits := Nat.mul_le_mul_left (recordBits v1) hlast
  have hat := hu.side.fb.atBit_eq
  rw [ends_bind, ← hat]
  rw [← hu.side.fb.fbSize] at hsize hend
  refine takes_readGranule v1 u _ _ _ (Nat.lt_of_le_of_lt hu.side.fits (hu.side.fb.fbSize ▸ hsize)) hsize
    (fun h => hend (by rw [Nat.mul_succ] at hbits; omega)) fun hfits => ?_
  rw [hu.side.fb.fbSize] at hfits
  have hnext : p + recordBits v1 * (nch * gr + ch) + recordBits v1 = p + recordBits v1 * (nch * gr + (ch + 1)) := by
    ring
  rw [hnext] at hfits ⊢
  rw [hu.side.fb.bytes]
  refine (ends_modify _).mpr ⟨hu.side.set hfits _, hu.mainDataBegin, hu.scfsi, fun r hr c hc hn => ?_⟩
  rw [granule_setGranule (by omega) (by omega)]
  by_cases hrc : gr = r ∧ ch = c
  · obtain ⟨rfl, rfl⟩ := hrc
    exact if_pos ⟨rfl, rfl⟩
  · rw [if_neg hrc]
    refine hu.record r hr c hc ?_
    obtain rfl | rfl := hnch <;> omega

end

/-- The bits before the granule records. -/
def headBits (v1 : Bool) (nch : Nat) : Nat := if v1 then (if nch = 1 then 18 else 20) else if nch = 1 then 9 else 10

/-- The bits before the `scfsi` flags. -/
def flagsPlace (v1 : Bool) (nch : Nat) : Nat := (if v1 then 9 else 8) + privateBits v1 nch

theorem headBits_eq {v1 : Bool} {nch : Nat} (h : nch = 1 ∨ nch = 2) :
    headBits v1 nch = flagsPlace v1 nch + scfsiBits v1 nch := by
  obtain rfl | rfl := h <;> cases v1 <;> rfl

/-- The side information is read: its records, and the fields before them. -/
def SideInfoRead (s : State) (v1 : Bool) (t : State) : Prop :=
  ∃ u, FlagsRead s (s.fb.pos.toNat + flagsPlace v1 s.nch)
      (BitVec.ofNat 9 (bitsAt s.fb.bytes s.fb.pos.toNat (if v1 then 9 else 8))) (scfsiBits v1 s.nch) u ∧
    RecordsRead s u v1 s.nch (s.fb.pos.toNat + headBits v1 s.nch) (s.nch * s.ngr) t

/-- The bits of the side information. -/
def sideBits (v1 : Bool) (ngr nch : Nat) : Nat := headBits v1 nch + recordBits v1 * (nch * ngr)

/-- `ParseSideInfo` reads the side information, or says that the body ends before it does (R322). -/
theorem parseSideInfo_reads {s : State} {v1 : Bool} (hv : v1 = decide (s.frm.version = 1))
    (hnch : s.nch = 1 ∨ s.nch = 2) (hsize : s.fbSize < 2 ^ 32) :
    Ends parseSideInfo (fun _ t => SideInfoRead s v1 t)
      (fun e _ => e = .streamExhausted ∧ s.fbSize < s.fb.pos.toNat + sideBits v1 s.ngr s.nch) s := by
  have hngr : s.ngr ≤ 2 := by unfold State.ngr; split <;> decide
  have hhead := headBits_eq (v1 := v1) hnch
  have hplace : s.fb.pos.toNat + (if v1 then 9 else 8) + privateBits v1 s.nch = s.fb.pos.toNat + flagsPlace v1 s.nch :=
    Nat.add_assoc ..
  unfold parseSideInfo sideBits
  rw [ends_bind, ends_get, ← hv]
  refine (fbAt_self s).read s.fb.pos.isLt (fun h => ⟨rfl, by omega⟩) fun hfits => ?_
  have hstart : SideRead s (s.fb.pos.toNat + if v1 then 9 else 8)
      (startSideInfo (bitsAt s.fb.bytes s.fb.pos.toNat (if v1 then 9 else 8))
        (s.atBit (s.fb.pos.toNat + if v1 then 9 else 8))) := ⟨rfl, rfl, hfits⟩
  rw [ends_bind, ends_modify]
  refine hstart.fb.read (Nat.lt_of_le_of_lt hfits hsize) (fun h => ⟨rfl, by rw [hplace] at h; omega⟩) fun hfits => ?_
  have hflags := hstart.set hfits id
  rw [hplace] at hflags ⊢
  rw [ends_bind]
  refine (readScfsi_reads (p := s.fb.pos.toNat + flagsPlace v1 s.nch) (by omega) hsize
    (fun h t => ⟨rfl, by omega⟩) ⟨hflags, rfl, fun ch hch i hi => ?_⟩).mono (fun _ u hu => ?_) fun _ _ h => h
  · have hzero : rd (rd (Vector.replicate 2 (Vector.replicate 4 (0 : BitVec 1))) ch) i = 0 := by simp [hch, hi]
    exact congrArg BitVec.toNat hzero
  · have hside := hu.side
    rw [Nat.add_assoc, ← hhead] at hside
    exact (readGranules_reads hngr hnch hsize (fun h t => ⟨rfl, by omega⟩) hside).mono (fun _ t ht => ⟨u, hu, ht⟩)
      fun _ _ h => h

/-- The fields of the side information, in the state that has read it. -/
theorem SideInfoRead.fields {s t : State} {v1 : Bool} (h : SideInfoRead s v1 t) :
    t = { s with fb := t.fb, tr := { s.tr with si := t.tr.si } } ∧
    t.fb = { s.fb with pos := BitVec.ofNat 32 (s.fb.pos.toNat + sideBits v1 s.ngr s.nch) } ∧
    t.tr.si.mainDataBegin.toNat = bitsAt s.fb.bytes s.fb.pos.toNat (if v1 then 9 else 8) ∧
    (∀ ch < 2, ∀ i < 4, (rd (rd t.tr.si.scfsi ch) i).toNat =
      if v1 = true ∧ ch < s.nch then
        bitsAt s.fb.bytes (s.fb.pos.toNat + (if s.nch = 1 then 14 else 12) + 4 * ch + i) 1
      else 0) ∧
    ∀ gr < s.ngr, ∀ ch < s.nch,
      GranuleAt s.fb.bytes (s.fb.pos.toNat + headBits v1 s.nch + recordBits v1 * (s.nch * gr + ch)) v1
        (t.granule gr ch) := by
  obtain ⟨u, hflags, hrecs⟩ := h
  refine ⟨hrecs.side.frame, ?_, ?_, fun ch hch i hi => ?_, fun gr hgr ch hch => ?_⟩
  · rw [sideBits, ← Nat.add_assoc]
    exact hrecs.side.fb
  · rw [hrecs.mainDataBegin, hflags.mainDataBegin]
    exact Nat.mod_eq_of_lt (Nat.lt_of_lt_of_le (bitsAt_lt ..) (by split <;> decide))
  · rw [hrecs.scfsi, hflags.flag ch hch i hi]
    cases v1
    · rfl
    · have hlt : 4 * ch + i < scfsiBits true s.nch ↔ (true = true ∧ ch < s.nch) := by
        show 4 * ch + i < 4 * s.nch ↔ _
        simp only [true_and]
        omega
      refine if_ctx_congr hlt (fun _ => ?_) fun _ => rfl
      · have hplace : flagsPlace true s.nch = if s.nch = 1 then 14 else 12 := by
          simp only [flagsPlace, privateBits, if_true]
          split <;> rfl
        rw [hplace, Nat.add_assoc, Nat.add_assoc, Nat.add_assoc]
  · have hngr : s.ngr ≤ 2 := by unfold State.ngr; split <;> decide
    rw [hrecs.record gr (by omega) ch hch ?_]
    · exact granuleAt_spec ..
    · calc s.nch * gr + ch < s.nch * (gr + 1) := by rw [Nat.mul_succ]; omega
        _ ≤ s.nch * s.ngr := Nat.mul_le_mul_left _ hgr

theorem SideInfoRead.fits {s t : State} {v1 : Bool} (h : SideInfoRead s v1 t) :
    s.fb.pos.toNat + sideBits v1 s.ngr s.nch ≤ s.fbSize := by
  obtain ⟨u, -, hrecs⟩ := h
  rw [sideBits, ← Nat.add_assoc]
  exact hrecs.side.fits

/-- Settles O28: the fields are read one after another, and each read either lies in the body or ends it. -/
theorem sideInformationIsRead : Obligations.SideInformationIsRead := by
  unfold Obligations.SideInformationIsRead
  intro s v1 head record hv hnch hhead hrecord hsize
  have hbits : s.fb.pos.toNat + head + s.ngr * s.nch * record = s.fb.pos.toNat + sideBits v1 s.ngr s.nch := by
    rw [hhead, hrecord]
    show _ + headBits v1 s.nch + s.ngr * s.nch * recordBits v1 = _ + (_ + _)
    ring
  have hreads := parseSideInfo_reads hv hnch hsize
  rw [hbits, hhead, hrecord]
  refine ⟨fun hshort => ?_, fun hfits => ?_⟩
  · obtain ⟨e, t, hend, rfl, -⟩ := hreads.exists_error fun _ t ht => Nat.not_le.mpr hshort ht.fits
    exact ⟨t, hend⟩
  · obtain ⟨_, t, hend, ht⟩ := hreads.exists_ok fun _ _ h => Nat.not_lt.mpr hfits h.2
    exact ⟨t, hend, ht.fields⟩

end Sys2Proof.Machine
end

section
/-! PROOFS. What Layer I and Layer II bodies share: the bound, and feeding the filters (R135, R277, R305). -/

-- One theorem after another: threads that wait for each other exhaust the memory limit with their stacks.
set_option Elab.async false

namespace Sys2Proof.Machine

open Act

/-! ## The bound (R135) -/

theorem jointBound_spec (s : State) : JointBound s s.jointBound := by
  have hmode : s.jointStereo = true ↔ s.hdr.word.extractLsb' 6 2 = 1 := beq_iff_eq
  show (if s.jointStereo = true then _ else 32) = if _ then _ else 32
  simp only [hmode]
  rfl

theorem jointBound_le (s : State) : s.jointBound ≤ 32 := by
  have := s.hdr.fields.modeExt.isLt
  unfold State.jointBound
  split <;> omega

/-! ## Feeding the filters (R277, R305) -/

/-- Two nested loops are one loop over the pairs, row by row. -/
theorem loop_pairs {σ : Type} (f : Nat → Nat → σ → σ) {cols : Nat} (hcols : 0 < cols) (rows : Nat) (s : σ) :
    loop rows (fun i => loop cols (f i)) s = loop (rows * cols) (fun k => f (k / cols) (k % cols)) s := by
  have hrow : ∀ i m, m ≤ cols → ∀ u, loop (i * cols) (fun k => f (k / cols) (k % cols)) s = u →
      loop (i * cols + m) (fun k => f (k / cols) (k % cols)) s = loop m (f i) u := by
    intro i m
    induction m with
    | zero => exact fun _ u hu => hu
    | succ m ih =>
      intro hm u hu
      have hdiv : (i * cols + m) / cols = i := by
        rw [Nat.mul_comm, Nat.mul_add_div hcols, Nat.div_eq_of_lt (by omega), Nat.add_zero]
      have hmod : (i * cols + m) % cols = m := by
        rw [Nat.mul_comm, Nat.mul_add_mod, Nat.mod_eq_of_lt (by omega)]
      rw [← Nat.add_assoc, loop_succ, loop_succ, ih (by omega) u hu, hdiv, hmod]
  induction rows with
  | zero => rw [Nat.zero_mul]; rfl
  | succ rows ih => rw [loop_succ, Nat.succ_mul, hrow rows cols le_rfl _ rfl, ih]

/-- The synthesis call of sample set i and channel ch, with the `GRID` that stands in the state. -/
def feedSet (i ch : Nat) (t : State) : State := feedSynth ch (tab 32 fun sb => rd (rd (rd t.tr.grid ch) sb) i) t

theorem SynthFrame.grid {s t : State} (h : SynthFrame s t) : t.tr.grid = s.tr.grid := (congrArg Transient.grid h.tr :)

theorem feedSet_grid (i ch : Nat) (t : State) : (feedSet i ch t).tr.grid = t.tr.grid :=
  (feedSynth_frame ch (tab 32 fun sb => rd (rd (rd t.tr.grid ch) sb) i) t).grid

/-- Feeding `GRID` is one synthesis call for each sample set and channel, in order. -/
theorem feedGrid_fedGrid (n : Nat) {nch : Nat} (hnch : 0 < nch) (t : State) : FedGrid n nch t (feedGrid n nch t) := by
  have hgrid : ∀ k, (loop k (fun k => feedSet (k / nch) (k % nch)) t).tr.grid = t.tr.grid := fun k =>
    loop_fixes (fun u : State => u.tr.grid) (fun _ _ => feedSet_grid ..) k t
  refine ⟨fun k => loop k (fun k => feedSet (k / nch) (k % nch)) t, rfl, (loop_pairs feedSet hnch n t).symm,
    fun i hi ch hch => ?_⟩
  have hdiv : (nch * i + ch) / nch = i := by rw [Nat.mul_add_div hnch, Nat.div_eq_of_lt hch, Nat.add_zero]
  have hmod : (nch * i + ch) % nch = ch := by rw [Nat.mul_add_mod, Nat.mod_eq_of_lt hch]
  dsimp only
  rw [loop_succ, hdiv, hmod, ← hgrid (nch * i + ch)]
  exact feedSynth_fedOnce ..

end Sys2Proof.Machine
end

section
/-! PROOFS. The places of a Layer I or Layer II plan, and the walk over its codes and pairs (R146, R147). -/

-- One theorem after another: threads that wait for each other exhaust the memory limit with their stacks.
set_option Elab.async false

namespace Sys2Proof.Machine

open Act

/-! ## The places of a plan -/

/-- b is a plan of the body in s. -/
structure BodyPlan.Of (b : BodyPlan) (s : State) : Prop where
  bytes : b.bytes = s.fb.bytes
  nch : b.nch = 1 ∨ b.nch = 2
  bound : b.bound ≤ b.nbal.length
  limit : b.nbal.length ≤ 32
  size : b.size < 2 ^ 32

section
variable {b : BodyPlan} {s : State}

theorem BodyPlan.Of.fbSize (h : b.Of s) : b.size = s.fbSize := congrArg (fun l : List Byte => 8 * l.length) h.bytes

theorem BodyPlan.Of.nch_pos (h : b.Of s) : 0 < b.nch := by
  obtain hn | hn := h.nch <;> omega

theorem BodyPlan.Of.ch_lt (hb : b.Of s) {ch : Nat} (hch : ch < b.nch) : ch < 2 := by
  obtain h | h := hb.nch <;> omega

theorem BodyPlan.codePos_zero (b : BodyPlan) : b.codePos 0 = b.pos := rfl

theorem BodyPlan.codePos_succ (b : BodyPlan) (j : Nat) :
    b.codePos (j + 1) = b.codePos j + b.nbal.getD (b.subband j) 0 := by
  unfold BodyPlan.codePos
  rw [List.range_succ, List.map_append, List.sum_append]
  simp [Nat.add_assoc]

theorem BodyPlan.codePos_mono (b : BodyPlan) : Monotone b.codePos :=
  monotone_nat_of_le_succ fun j => by rw [b.codePos_succ]; exact Nat.le_add_right ..

theorem BodyPlan.index_own {sb : Nat} (h : sb < b.bound) (ch : Nat) : b.index ch sb = b.nch * sb + ch := if_pos h

theorem BodyPlan.index_shared {sb : Nat} (h : b.bound ≤ sb) (ch : Nat) :
    b.index ch sb = b.nch * b.bound + (sb - b.bound) := if_neg (Nat.not_lt.mpr h)

theorem BodyPlan.Of.index_lt (h : b.Of s) {ch sb : Nat} (hch : ch < b.nch) (hsb : sb < b.nbal.length) :
    b.index ch sb < b.codes := by
  unfold BodyPlan.index BodyPlan.codes
  obtain hn | hn := h.nch <;> rw [hn] at hch ⊢ <;> split <;> omega

theorem BodyPlan.Of.subband_index (h : b.Of s) {ch : Nat} (hch : ch < b.nch) (sb : Nat) :
    b.subband (b.index ch sb) = sb := by
  unfold BodyPlan.index BodyPlan.subband
  obtain hn | hn := h.nch <;> rw [hn] at hch ⊢ <;> (repeat' split) <;> omega

theorem BodyPlan.alloc_eq {ch sb : Nat} (hsb : sb < b.nbal.length) : b.alloc ch sb = b.code (b.index ch sb) :=
  if_pos hsb

theorem BodyPlan.allocated_pair {ch sb : Nat} (hch : ch < b.nch) :
    b.allocated (b.nch * sb + ch) = (b.alloc ch sb != 0) := by
  unfold BodyPlan.allocated
  rw [Nat.mul_add_mod, Nat.mod_eq_of_lt hch, Nat.mul_add_div (by omega), Nat.div_eq_of_lt hch, Nat.add_zero]

theorem BodyPlan.allocated_iff {ch sb : Nat} (hch : ch < b.nch) {v : BitVec 4} (hv : v.toNat = b.alloc ch sb) :
    b.allocated (b.nch * sb + ch) = true ↔ v ≠ 0 := by
  rw [BodyPlan.allocated_pair hch, ← hv, bne_iff_ne, ne_eq, ne_eq, ← BitVec.toNat_inj]
  rfl

theorem BodyPlan.before_succ (b : BodyPlan) (n : Nat) :
    b.before (n + 1) = b.before n ++ if b.allocated n then [n] else [] := by
  unfold BodyPlan.before
  rw [List.range_succ, List.filter_append, List.filter_singleton, Bool.cond_eq_ite]

end

/-! ## Walking -/

/-- What is to hold of the pairs holds of the first n, subband by subband, channel by channel. -/
def DoneUpTo (nch n : Nat) (good : Nat → Nat → Prop) : Prop := ∀ sb < 32, ∀ ch < nch, nch * sb + ch < n → good ch sb

section
variable {nch n sb ch : Nat} {good good' : Nat → Nat → Prop}

theorem doneUpTo_zero : DoneUpTo nch 0 good := fun _ _ _ _ h => absurd h (Nat.not_lt_zero _)

theorem DoneUpTo.mono (h : DoneUpTo nch n good) (hgood : ∀ ch sb, good ch sb → good' ch sb) : DoneUpTo nch n good' :=
  fun sb hsb ch hch hn => hgood ch sb (h sb hsb ch hch hn)

theorem pair_inj {c b : Nat} (hch : ch < nch) (hc : c < nch) (h : nch * b + c = nch * sb + ch) : c = ch ∧ b = sb := by
  have hmod := congrArg (· % nch) h
  have hdiv := congrArg (· / nch) h
  simp only [Nat.mul_add_mod, Nat.mul_add_div (Nat.zero_lt_of_lt hch), Nat.mod_eq_of_lt hch, Nat.mod_eq_of_lt hc,
    Nat.div_eq_of_lt hch, Nat.div_eq_of_lt hc, Nat.add_zero] at hmod hdiv
  exact ⟨hmod, hdiv⟩

/-- The next pair is done. -/
theorem DoneUpTo.succ (h : DoneUpTo nch (nch * sb + ch) good) (hch : ch < nch) (hnew : good' ch sb)
    (hold : ∀ c b, ¬ (ch = c ∧ sb = b) → good c b → good' c b) : DoneUpTo nch (nch * sb + ch + 1) good' := by
  intro b hb c hc hn
  obtain hlt | heq := Nat.lt_or_eq_of_le (Nat.le_of_lt_succ hn)
  · refine hold c b ?_ (h b hb c hc hlt)
    rintro ⟨rfl, rfl⟩
    exact Nat.lt_irrefl _ hlt
  · obtain ⟨rfl, rfl⟩ := pair_inj hch hc heq
    exact hnew

theorem pair_lt {rows : Nat} (hch : ch < nch) (hsb : sb < rows) : nch * sb + ch < nch * rows :=
  calc nch * sb + ch < nch * (sb + 1) := by rw [Nat.mul_succ]; omega
    _ ≤ nch * rows := Nat.mul_le_mul_left _ hsb

/-- All pairs of the first rows are done. -/
theorem DoneUpTo.get {rows : Nat} (h : DoneUpTo nch (nch * rows) good) (hrows : rows ≤ 32) (hsb : sb < rows)
    (hch : ch < nch) : good ch sb :=
  h sb (Nat.lt_of_lt_of_le hsb hrows) ch hch (pair_lt hch hsb)

end

/-- What is to hold of the samples holds of the first k sets, and of the first n pairs of set k. -/
structure SetsDone (nch k n : Nat) (good : Nat → Nat → Nat → Prop) : Prop where
  sets : ∀ i < k, DoneUpTo nch (nch * 32) (good i)
  pairs : DoneUpTo nch n (good k)

section
variable {nch k n sb ch : Nat} {good good' : Nat → Nat → Nat → Prop}

theorem setsDone_zero : SetsDone nch 0 0 good := ⟨fun _ h => absurd h (Nat.not_lt_zero _), doneUpTo_zero⟩

theorem SetsDone.nextSet (h : SetsDone nch k (nch * 32) good) : SetsDone nch (k + 1) 0 good :=
  ⟨fun i hi => (Nat.lt_or_eq_of_le (Nat.le_of_lt_succ hi)).elim (h.sets i) fun heq => heq ▸ h.pairs, doneUpTo_zero⟩

/-- The next pair is done. -/
theorem SetsDone.succ (h : SetsDone nch k (nch * sb + ch) good) (hch : ch < nch) (hnew : good' k ch sb)
    (hold : ∀ i c b, ¬ (i = k ∧ ch = c ∧ sb = b) → good i c b → good' i c b) :
    SetsDone nch k (nch * sb + ch + 1) good' :=
  ⟨fun i hi => (h.sets i hi).mono fun c b => hold i c b fun heq => Nat.ne_of_lt hi heq.1,
    h.pairs.succ hch hnew fun c b hcb => hold k c b fun heq => hcb heq.2⟩

end

/-- The sample of a channel, a subband and a place in `GRID` after one was stored. -/
theorem grid_setGrid {ch sb i : Nat} (hch : ch < 2) (hsb : sb < 32) (hi : i < 36) (x : Sample) (t : State)
    (c b k : Nat) :
    rd (rd (rd (setGrid ch sb i x t).tr.grid c) b) k =
      if ch = c ∧ sb = b ∧ i = k then x else rd (rd (rd t.tr.grid c) b) k := by
  show rd (rd (rd (upd t.tr.grid ch fun g => upd g sb fun r => wr r i x) c) b) k = _
  rw [rd_upd_upd t.tr.grid hch hsb]
  by_cases hcb : ch = c ∧ sb = b
  · obtain ⟨rfl, rfl⟩ := hcb
    rw [if_pos ⟨rfl, rfl⟩, rd_wr]
    by_cases hk : i = k
    · rw [if_pos ⟨hk, hk ▸ hi⟩, if_pos ⟨rfl, rfl, hk⟩]
    · rw [if_neg fun h => hk h.1, if_neg fun h => hk h.2.2]
  · rw [if_neg hcb, if_neg fun h => hcb ⟨h.1, h.2.1⟩]

/-- t is s but for what the layer owns of the transient registers, and has read the body of s up to bit p, which is in
it if anything was read. -/
structure BodyRead (own : Transient → Transient → Transient) (s : State) (p : Nat) (t : State) : Prop where
  frame : t = { s with fb := t.fb, tr := own s.tr t.tr }
  fb : FbAt s p t
  fits : p ≤ s.fbSize ∨ p = s.fb.pos.toNat

/-- A field of n bits that may not be v. -/
def readAllowed (n v : Nat) : Act (BitVec n) := do
  let c ← fbBits n
  if c = v then throw .reservedValue
  return BitVec.ofNat n c

theorem readAlloc1_eq : readAlloc1 = readAllowed 4 15 := rfl
theorem readScfIndex_eq : readScfIndex = readAllowed 6 63 := rfl

section
variable {own : Transient → Transient → Transient} {s t : State} {p q n : Nat} {β : Type} {Q : β → State → Prop}
  {E : Code → State → Prop}

theorem BodyRead.lt (h : BodyRead own s p t) (hsize : s.fbSize < 2 ^ 32) : p < 2 ^ 32 := by
  obtain hp | rfl := h.fits
  · exact hp.trans_lt hsize
  · exact s.fb.pos.isLt

theorem BodyRead.cfg (h : BodyRead own s p t) : t.cfg = s.cfg := by rw [h.frame]

theorem BodyRead.ownTr (h : BodyRead own s p t) : own s.tr t.tr = t.tr := (congrArg State.tr h.frame :).symm

/-- Registers of the layer's own are set. -/
theorem BodyRead.withTr (h : BodyRead own s p t) {x : Transient} (hx : own s.tr x = x) :
    BodyRead own s p (t.withTr x) :=
  ⟨by rw [h.frame]; exact congrArg (fun tr => { s with fb := t.fb, tr := tr }) hx.symm, h.fb, h.fits⟩

theorem BodyRead.atBit (h : BodyRead own s p t) (hq : q ≤ s.fbSize) : BodyRead own s q (t.atBit q) :=
  ⟨congrArg (State.atBit · q) h.frame, h.fb.atBit q, .inl hq⟩

/-- The field of n bits at the cursor of t, and what follows it. -/
theorem BodyRead.read {k : Nat → Act β} (h : BodyRead own s p t) (hsize : s.fbSize < 2 ^ 32)
    (hend : s.fbSize < p + n → E .streamExhausted t)
    (hk : p + n ≤ s.fbSize → Ends (k (bitsAt s.fb.bytes p n)) Q E (t.atBit (p + n))) : Ends (fbBits n >>= k) Q E t :=
  h.fb.read (h.lt hsize) hend hk

/-- The budget of n bits from the cursor of t on. -/
theorem BodyRead.budget {Q : Unit → State → Prop} (h : BodyRead own s p t) (hsize : s.fbSize < 2 ^ 32) :
    Ends (fbBudget n) Q E t ↔ if s.fbSize < p + n then E .streamExhausted t else Q () t := by
  have hpos : t.fb.pos.toNat = p := by
    rw [h.fb]
    exact Nat.mod_eq_of_lt (h.lt hsize)
  rw [fbBudget_ends, hpos, h.fb.bytes]
  rfl

/-- A field of n bits that may not be v, and what follows it. -/
theorem BodyRead.readAllowed {v : Nat} {k : BitVec n → Act β} (h : BodyRead own s p t) (hsize : s.fbSize < 2 ^ 32)
    (hend : s.fbSize < p + n → ∀ u, E .streamExhausted u)
    (hbad : p + n ≤ s.fbSize → bitsAt s.fb.bytes p n = v → ∀ u, E .reservedValue u)
    (hk : p + n ≤ s.fbSize → bitsAt s.fb.bytes p n ≠ v →
      Ends (k (BitVec.ofNat n (bitsAt s.fb.bytes p n))) Q E (t.atBit (p + n))) :
    Ends (readAllowed n v >>= k) Q E t := by
  unfold Machine.readAllowed
  rw [ends_bind]
  refine h.read hsize (fun hn => hend hn t) fun hn => ?_
  by_cases hc : bitsAt s.fb.bytes p n = v
  · rw [if_pos hc, ends_bind, ends_throw]
    exact hbad hn hc _
  · rw [if_neg hc]
    exact (ends_pure _).mpr (hk hn hc)

end

section
variable {s : State}

/-- The check word is skipped (R137). -/
theorem skipCheckWord_reads {own : Transient → Transient → Transient} (hown : own s.tr s.tr = s.tr)
    (hsize : s.fbSize < 2 ^ 32) {E : Code → State → Prop}
    (hend : s.fbSize < s.fb.pos.toNat + (if s.hdr.fields.protection = 0 then 16 else 0) → ∀ t, E .streamExhausted t) :
    Ends skipCheckWord
      (fun _ t => BodyRead own s (s.fb.pos.toNat + if s.hdr.fields.protection = 0 then 16 else 0) t) E s := by
  have hself : BodyRead own s s.fb.pos.toNat s :=
    ⟨congrArg (fun tr => { s with tr := tr }) hown.symm, fbAt_self s, .inr rfl⟩
  unfold skipCheckWord
  rw [ends_bind, ends_get]
  split
  · rw [if_pos ‹_›] at hend
    refine hself.read hsize (fun hn => hend hn s) fun hn => ?_
    exact (ends_pure _).mpr (hself.atBit hn)
  · exact (ends_pure _).mpr hself

end

/-- What is done for channel 0, and for channel 1 when there is one, is done for each channel. -/
theorem ends_eachChannel {nch : Nat} (hnch : nch = 1 ∨ nch = 2) (f : Nat → State → State) {Q : Unit → State → Prop}
    {E : Code → State → Prop} {t : State} :
    Ends (do modify (f 0); if nch = 2 then modify (f 1)) Q E t ↔ Q () (loop nch f t) := by
  rw [ends_bind, ends_modify]
  obtain rfl | rfl := hnch
  · exact ends_pure ()
  · exact ends_modify (f 1)

/-- The codes of the subbands below sb. -/
def BodyPlan.codesBefore (b : BodyPlan) (sb : Nat) : Nat :=
  if sb < b.bound then b.nch * sb else b.nch * b.bound + (min sb b.nbal.length - b.bound)

section
variable {b : BodyPlan} {sb : Nat}

theorem BodyPlan.codesBefore_of_le (h : sb ≤ b.bound) : b.codesBefore sb = b.nch * sb := by
  unfold BodyPlan.codesBefore
  split
  · rfl
  · obtain rfl : sb = b.bound := by omega
    omega

theorem BodyPlan.codesBefore_of_ge (h : b.bound ≤ sb) :
    b.codesBefore sb = b.nch * b.bound + (min sb b.nbal.length - b.bound) :=
  if_neg (Nat.not_lt.mpr h)

theorem BodyPlan.codesBefore_limit (hbound : b.bound ≤ b.nbal.length) (h : b.nbal.length ≤ sb) :
    b.codesBefore sb = b.codes := by
  rw [BodyPlan.codesBefore_of_ge (hbound.trans h), Nat.min_eq_right h]
  rfl

theorem BodyPlan.codesBefore_succ (h : sb < b.nbal.length) :
    b.codesBefore (sb + 1) = b.codesBefore sb + if sb < b.bound then b.nch else 1 := by
  split
  · rw [BodyPlan.codesBefore_of_le ‹_›, BodyPlan.codesBefore_of_le (Nat.le_of_lt ‹_›), Nat.mul_succ]
  · rw [BodyPlan.codesBefore_of_ge (by omega), BodyPlan.codesBefore_of_ge (by omega)]
    omega

/-- The sum over the codes is the sum over the subbands, a code for each channel below the bound. -/
theorem BodyPlan.Of.sum_codes {s : State} (hb : b.Of s) (w : Nat → Nat) :
    ((List.range b.nbal.length).map fun sb =>
      if sb < b.bound then ((List.range b.nch).map fun ch => w (b.index ch sb)).sum else w (b.index 0 sb)).sum =
    ((List.range b.codes).map w).sum := by
  have key : ∀ m ≤ b.nbal.length, ((List.range m).map fun sb =>
      if sb < b.bound then ((List.range b.nch).map fun ch => w (b.index ch sb)).sum else w (b.index 0 sb)).sum =
      ((List.range (b.codesBefore m)).map w).sum := by
    intro m
    induction m with
    | zero => intro _; rw [BodyPlan.codesBefore_of_le (Nat.zero_le _)]; rfl
    | succ m ih =>
      intro hm
      rw [List.range_succ, List.map_append, List.sum_append, ih (by omega), BodyPlan.codesBefore_succ hm,
        List.range_add, List.map_append, List.sum_append, List.map_map]
      refine congrArg (_ + ·) ?_
      rw [List.map_singleton, List.sum_singleton]
      by_cases hown : m < b.bound
      · rw [if_pos hown, if_pos hown, BodyPlan.codesBefore_of_le hown.le]
        exact congrArg List.sum (List.map_congr_left fun ch _ => by rw [BodyPlan.index_own hown]; rfl)
      · rw [if_neg hown, if_neg hown, BodyPlan.codesBefore_of_ge (Nat.not_lt.mp hown),
          BodyPlan.index_shared (Nat.not_lt.mp hown), Nat.min_eq_left (Nat.le_of_lt hm)]
        simp
  rw [key _ le_rfl, BodyPlan.codesBefore_limit hb.bound le_rfl]

end

/-- The walk over the subbands: a code for each channel below the bound, a shared one from there to the limit, and none
from there on. P counts the codes and the pairs that are read. -/
theorem ends_codes {b : BodyPlan} {s : State} (hb : b.Of s) {P : Nat → Nat → State → Prop} {E : Code → State → Prop}
    {f : Nat → Act Unit} {g : Nat → Nat → Act Unit} {t : State} (h0 : P 0 0 t)
    (hf : ∀ sb < b.bound, f sb = forEach b.nch (g sb))
    (hown : ∀ sb < b.bound, ∀ ch < b.nch, ∀ t, P (b.index ch sb) (b.nch * sb + ch) t →
      Ends (g sb ch) (fun _ u => P (b.index ch sb + 1) (b.nch * sb + ch + 1) u) E t)
    (hshared : ∀ sb, b.bound ≤ sb → sb < b.nbal.length → ∀ t, P (b.index 0 sb) (b.nch * sb) t →
      Ends (f sb) (fun _ u => P (b.index 0 sb + 1) (b.nch * (sb + 1)) u) E t)
    (hnone : ∀ sb, b.nbal.length ≤ sb → sb < 32 → ∀ t, P b.codes (b.nch * sb) t →
      Ends (f sb) (fun _ u => P b.codes (b.nch * (sb + 1)) u) E t) :
    Ends (forEach 32 f) (fun _ u => P b.codes (b.nch * 32) u) E t := by
  rw [← BodyPlan.codesBefore_limit hb.bound hb.limit]
  refine ends_forEach (P := fun sb t => P (b.codesBefore sb) (b.nch * sb) t) ?_ fun sb hsb t ht => ?_
  · rwa [BodyPlan.codesBefore_of_le (Nat.zero_le _)]
  obtain hown' | hle := Nat.lt_or_ge sb b.bound
  · rw [BodyPlan.codesBefore_of_le hown'.le] at ht
    rw [BodyPlan.codesBefore_of_le hown', hf sb hown']
    refine ends_forEach (P := fun ch t => P (b.nch * sb + ch) (b.nch * sb + ch) t) ht fun ch hch u hu => ?_
    have hstep := hown sb hown' ch hch u
    rw [BodyPlan.index_own hown'] at hstep
    exact hstep hu
  obtain hshared' | hge := Nat.lt_or_ge sb b.nbal.length
  · have hstep := hshared sb hle hshared' t
    rw [BodyPlan.index_shared hle] at hstep
    rw [BodyPlan.codesBefore_of_ge hle, Nat.min_eq_left hshared'.le] at ht
    rw [BodyPlan.codesBefore_of_ge (Nat.le_succ_of_le hle), Nat.min_eq_left hshared', Nat.succ_sub hle]
    exact hstep ht
  · rw [BodyPlan.codesBefore_limit hb.bound hge] at ht
    rw [BodyPlan.codesBefore_limit hb.bound (Nat.le_succ_of_le hge)]
    exact hnone sb hge hsb t ht

end Sys2Proof.Machine
end

section
/-! PROOFS. The body of a Layer I frame (R271 to R278). -/

-- One theorem after another: threads that wait for each other exhaust the memory limit with their stacks.
set_option Elab.async false

namespace Sys2Proof.Machine

open Act

/-! ## The places of a Layer I body -/

/-- The transient registers that `L1Decode` owns. -/
def own1 (a b : Transient) : Transient := { a with l1 := b.l1, grid := b.grid }

/-- b is the plan of the Layer I body in s. -/
structure BodyPlan.Of1 (b : BodyPlan) (s : State) : Prop extends b.Of s where
  widths : b.nbal = List.replicate 32 4

section
variable {b : BodyPlan} {s : State}

theorem BodyPlan.Of1.length (h : b.Of1 s) : b.nbal.length = 32 := by rw [h.widths, List.length_replicate]

theorem BodyPlan.factorPos1_succ (b : BodyPlan) (n : Nat) :
    b.factorPos1 (n + 1) = b.factorPos1 n + if b.allocated n then 6 else 0 := by
  unfold BodyPlan.factorPos1
  rw [b.before_succ, List.length_append]
  split <;> simp [Nat.mul_add, Nat.add_assoc]

theorem BodyPlan.factorPos1_mono (b : BodyPlan) : Monotone b.factorPos1 :=
  monotone_nat_of_le_succ fun n => by rw [b.factorPos1_succ]; exact Nat.le_add_right ..

theorem BodyPlan.factorPos1_zero (b : BodyPlan) : b.factorPos1 0 = b.codesEnd := rfl

theorem BodyPlan.offset1_succ (b : BodyPlan) (j : Nat) : b.offset1 (j + 1) = b.offset1 j + b.sampleBits1 j := by
  unfold BodyPlan.offset1
  rw [List.range_succ, List.map_append, List.sum_append]
  rfl

theorem BodyPlan.offset1_mono (b : BodyPlan) : Monotone b.offset1 :=
  monotone_nat_of_le_succ fun j => by rw [b.offset1_succ]; exact Nat.le_add_right ..

theorem BodyPlan.setPos1_succ (b : BodyPlan) (i : Nat) : b.setPos1 (i + 1) = b.setPos1 i + b.offset1 b.codes := by
  unfold BodyPlan.setPos1
  ring

theorem BodyPlan.setPos1_mono (b : BodyPlan) : Monotone b.setPos1 :=
  monotone_nat_of_le_succ fun i => by rw [b.setPos1_succ]; exact Nat.le_add_right ..

theorem BodyPlan.setPos1_zero (b : BodyPlan) : b.setPos1 0 = b.factorPos1 (b.nch * 32) := by
  unfold BodyPlan.setPos1
  rw [Nat.zero_mul, Nat.mul_comm 32]
  rfl

theorem BodyPlan.codePos_le_setPos1 (b : BodyPlan) {j : Nat} (hj : j ≤ b.codes) : b.codePos j ≤ b.setPos1 12 :=
  calc b.codePos j ≤ b.codesEnd := b.codePos_mono hj
    _ ≤ b.factorPos1 (b.nch * 32) := b.factorPos1_mono (Nat.zero_le _)
    _ ≤ b.setPos1 12 := b.setPos1_zero ▸ b.setPos1_mono (Nat.zero_le 12)

theorem BodyPlan.factorPos1_le_setPos1 (b : BodyPlan) {n : Nat} (hn : n ≤ b.nch * 32) : b.factorPos1 n ≤ b.setPos1 12 :=
  (b.factorPos1_mono hn).trans (b.setPos1_zero ▸ b.setPos1_mono (Nat.zero_le 12))

/-- Every sample lies before the end of the samples. -/
theorem BodyPlan.sample_le_setPos1 (b : BodyPlan) {i j : Nat} (hi : i < 12) (hj : j < b.codes) :
    b.setPos1 i + b.offset1 (j + 1) ≤ b.setPos1 12 :=
  calc b.setPos1 i + b.offset1 (j + 1) ≤ b.setPos1 i + b.offset1 b.codes := Nat.add_le_add_left (b.offset1_mono hj) _
    _ = b.setPos1 (i + 1) := (b.setPos1_succ i).symm
    _ ≤ b.setPos1 12 := b.setPos1_mono hi

theorem BodyPlan.Of1.codePos_index (h : b.Of1 s) {ch sb : Nat} (hch : ch < b.nch) (hsb : sb < 32) :
    b.codePos (b.index ch sb + 1) = b.codePos (b.index ch sb) + 4 ∧
      b.code (b.index ch sb) = bitsAt s.fb.bytes (b.codePos (b.index ch sb)) 4 := by
  have hwidth : b.nbal.getD (b.subband (b.index ch sb)) 0 = 4 := by
    rw [h.subband_index hch, h.widths, List.getD_replicate 4 hsb]
  rw [b.codePos_succ, BodyPlan.code, hwidth, h.bytes]
  exact ⟨rfl, rfl⟩

/-! ## How the body fails -/

/-- No code that lies in the body is forbidden. -/
def BodyPlan.CodesAllowed (b : BodyPlan) : Prop := ∀ j < b.codes, b.codePos (j + 1) ≤ b.size → b.code j ≠ 15

/-- No scale-factor index that lies in the body is forbidden. -/
def BodyPlan.FactorsAllowed (b : BodyPlan) : Prop :=
  ∀ n < 32 * b.nch, b.allocated n = true → b.factorPos1 n + 6 ≤ b.size → b.factor1 n ≠ 63

/-- How `L1Decode` fails, and when. -/
inductive BodyPlan.Fails1 (b : BodyPlan) : Code → Prop
  | code {j : Nat} (hj : j < b.codes) (hin : b.codePos (j + 1) ≤ b.size) (hbad : b.code j = 15) :
      b.Fails1 .reservedValue
  | factor {n : Nat} (hcodes : b.codesEnd ≤ b.size) (hallowed : b.CodesAllowed) (hn : n < 32 * b.nch)
      (halloc : b.allocated n = true) (hin : b.factorPos1 n + 6 ≤ b.size) (hbad : b.factor1 n = 63) :
      b.Fails1 .reservedValue
  | short (hcodes : b.CodesAllowed) (hfactors : b.FactorsAllowed) (hroom : b.size < b.setPos1 12) :
      b.Fails1 .streamExhausted

end

/-! ## The allocation (R272) -/

theorem alloc1_setAlloc1 {ch sb : Nat} (hch : ch < 2) (hsb : sb < 32) (v : BitVec 4) (t : State) (c b : Nat) :
    (setAlloc1 ch sb v t).alloc1 c b = if ch = c ∧ sb = b then v else t.alloc1 c b :=
  rd_upd_upd t.tr.l1.alloc hch hsb (fun _ => v) c b

theorem scf1_setScf1 {ch sb : Nat} (hch : ch < 2) (hsb : sb < 32) (v : BitVec 6) (t : State) (c b : Nat) :
    (setScf1 ch sb v t).scf1 c b = if ch = c ∧ sb = b then v else t.scf1 c b :=
  rd_upd_upd t.tr.l1.scf hch hsb (fun _ => v) c b

/-- The body is read up to bit p, and the allocation of the first n pairs is stored. -/
structure Alloc1Read (s : State) (b : BodyPlan) (p n : Nat) (t : State) : Prop where
  body : BodyRead own1 s p t
  alloc : DoneUpTo b.nch n fun ch sb => (t.alloc1 ch sb).toNat = b.alloc ch sb

section
variable {s s0 s1 t : State} {b : BodyPlan} {p n : Nat}

theorem Alloc1Read.atBit (h : Alloc1Read s b p n t) {q : Nat} (hq : q ≤ s.fbSize) : Alloc1Read s b q n (t.atBit q) :=
  ⟨h.body.atBit hq, h.alloc⟩

theorem BodyRead.withL1 (h : BodyRead own1 s p t) (x : Layer1Regs) :
    BodyRead own1 s p (t.withTr { t.tr with l1 := x }) :=
  h.withTr (congrArg (fun tr : Transient => { tr with l1 := x }) h.ownTr)

theorem BodyRead.withGrid1 (h : BodyRead own1 s p t) (x : Vector (Vector (Vector Sample 36) 32) 2) :
    BodyRead own1 s p (t.withTr { t.tr with grid := x }) :=
  h.withTr (congrArg (fun tr : Transient => { tr with grid := x }) h.ownTr)

theorem Alloc1Read.store (hb : b.Of s) {ch sb : Nat} (h : Alloc1Read s b p (b.nch * sb + ch) t) (hch : ch < b.nch)
    (hsb : sb < 32) {v : BitVec 4} (hv : v.toNat = b.alloc ch sb) :
    Alloc1Read s b p (b.nch * sb + ch + 1) (setAlloc1 ch sb v t) := by
  have hset := alloc1_setAlloc1 (hb.ch_lt hch) hsb v t
  refine ⟨h.body.withL1 _, h.alloc.succ hch ?_ fun c sb' hne hold => ?_⟩
  · rw [hset, if_pos ⟨rfl, rfl⟩, hv]
  · rw [hset, if_neg hne, hold]

/-- The next code of the body, and what follows it. -/
theorem readAlloc1_reads (hb : b.Of1 s) {ch sb : Nat} (hch : ch < b.nch) (hsb : sb < 32) {β : Type}
    {k : BitVec 4 → Act β} {Q : β → State → Prop} (h : BodyRead own1 s (b.codePos (b.index ch sb)) t)
    (hbefore : ∀ i < b.index ch sb, b.code i ≠ 15)
    (hk : ∀ v : BitVec 4, v.toNat = b.code (b.index ch sb) → b.codePos (b.index ch sb + 1) ≤ s.fbSize →
      (∀ i < b.index ch sb + 1, b.code i ≠ 15) →
      Ends (k v) Q (fun e _ => b.Fails1 e) (t.atBit (b.codePos (b.index ch sb + 1)))) :
    Ends (readAlloc1 >>= k) Q (fun e _ => b.Fails1 e) t := by
  have hj := hb.index_lt hch (hb.length.symm ▸ hsb)
  obtain ⟨hnext, hcode⟩ := hb.codePos_index hch hsb
  have hsize := hb.fbSize
  rw [readAlloc1_eq]
  rw [hnext] at hk
  refine h.readAllowed (hb.fbSize ▸ hb.size) (fun hn _ => ?_) (fun hn hc _ => .code hj (by omega) (hcode.trans hc))
    fun hn hc => hk _ ((toNat_bitsAt ..).trans hcode.symm) hn <|
      Nat.forall_lt_succ_right.mpr ⟨hbefore, hcode ▸ hc⟩
  have hout : b.size < b.codePos (b.index ch sb + 1) := by omega
  refine .short (fun i _ hin => hbefore i ?_) (fun m _ _ hin => ?_) (hout.trans_le (b.codePos_le_setPos1 hj))
  · by_contra hge
    have hmono := b.codePos_mono (show b.index ch sb + 1 ≤ i + 1 by omega)
    omega
  · have hcodes : b.codePos (b.index ch sb + 1) ≤ b.factorPos1 m :=
      (b.codePos_mono hj).trans (b.factorPos1_mono (Nat.zero_le m))
    omega

/-- `readAllocs1`: every code is what stands at its place, and is allowed. -/
theorem readAllocs1_reads (hb : b.Of1 s) (h : Alloc1Read s b b.pos 0 t) :
    Ends (readAllocs1 b.nch b.bound)
      (fun _ u => Alloc1Read s b b.codesEnd (b.nch * 32) u ∧ ∀ j < b.codes, b.code j ≠ 15)
      (fun e _ => b.Fails1 e) t := by
  have hlen := hb.length
  have hone := hb.nch_pos
  unfold readAllocs1
  refine ends_codes hb.toOf (P := fun j n t => Alloc1Read s b (b.codePos j) n t ∧ ∀ i < j, b.code i ≠ 15)
    ⟨h, fun _ hi => absurd hi (Nat.not_lt_zero _)⟩ (fun sb hsb => if_pos hsb) (fun sb hsb ch hch t ht => ?_)
    (fun sb hge hsb t ht => ?_) fun sb hge hsb => absurd hge (by omega)
  · have hsb : sb < 32 := by have := hb.bound; omega
    refine readAlloc1_reads hb hch hsb ht.1.body ht.2 fun v hv hin hallowed => ?_
    exact (ends_modify _).mpr
      ⟨(ht.1.atBit hin).store hb.toOf hch hsb (hv.trans (BodyPlan.alloc_eq (hlen.symm ▸ hsb)).symm), hallowed⟩
  · rw [if_neg (Nat.not_lt.mpr hge)]
    rw [hlen] at hsb
    refine readAlloc1_reads hb hone hsb ht.1.body ht.2 fun v hv hin hallowed => ?_
    have hvalue : ∀ ch, v.toNat = b.alloc ch sb := fun ch => by
      rw [hv, BodyPlan.alloc_eq (hlen.symm ▸ hsb), BodyPlan.index_shared hge, BodyPlan.index_shared hge]
    refine (ends_eachChannel hb.nch fun ch => setAlloc1 ch sb v).mpr ⟨?_, hallowed⟩
    exact loop_induct (P := fun ch u => Alloc1Read s b _ (b.nch * sb + ch) u) (ht.1.atBit hin) fun ch u hch hu =>
      hu.store hb.toOf hch hsb (hvalue ch)

/-! ## The scale factors (R273) -/

/-- The allocation of s0 stands, and the scale-factor indexes of the first n pairs are stored. -/
structure Factor1Read (s : State) (b : BodyPlan) (s0 : State) (n : Nat) (t : State) : Prop where
  body : BodyRead own1 s (b.factorPos1 n) t
  alloc : t.tr.l1.alloc = s0.tr.l1.alloc
  factor : DoneUpTo b.nch n fun ch sb => b.alloc ch sb ≠ 0 → (t.scf1 ch sb).toNat = b.factor1 (b.nch * sb + ch)
  allowed : ∀ m < n, b.allocated m = true → b.factor1 m ≠ 63

section
variable {ch sb : Nat}

/-- A pair that is not allocated has no index. -/
theorem Factor1Read.skip (h : Factor1Read s b s0 (b.nch * sb + ch) t) (hch : ch < b.nch) (hzero : b.alloc ch sb = 0) :
    Factor1Read s b s0 (b.nch * sb + ch + 1) t := by
  have hnot : b.allocated (b.nch * sb + ch) = false := by
    rw [BodyPlan.allocated_pair hch, hzero]
    rfl
  have hnext := b.factorPos1_succ (b.nch * sb + ch)
  rw [hnot] at hnext
  exact ⟨by rw [hnext]; exact h.body, h.alloc, h.factor.succ hch (absurd hzero) fun _ _ _ => id,
    Nat.forall_lt_succ_right.mpr ⟨h.allowed, fun ha => absurd (hnot.symm.trans ha) (by decide)⟩⟩

/-- The index of an allocated pair is stored. -/
theorem Factor1Read.store (hb : b.Of s) (h : Factor1Read s b s0 (b.nch * sb + ch) t) (hch : ch < b.nch) (hsb : sb < 32)
    (hfits : b.factorPos1 (b.nch * sb + ch + 1) ≤ s.fbSize) {v : BitVec 6}
    (hv : v.toNat = b.factor1 (b.nch * sb + ch)) (hallowed : b.factor1 (b.nch * sb + ch) ≠ 63) :
    Factor1Read s b s0 (b.nch * sb + ch + 1) (setScf1 ch sb v (t.atBit (b.factorPos1 (b.nch * sb + ch + 1)))) := by
  have hset := scf1_setScf1 (hb.ch_lt hch) hsb v (t.atBit (b.factorPos1 (b.nch * sb + ch + 1)))
  refine ⟨(h.body.atBit hfits).withL1 _, h.alloc, h.factor.succ hch (fun _ => ?_) fun c sb' hne hold hc => ?_,
    Nat.forall_lt_succ_right.mpr ⟨h.allowed, fun _ => hallowed⟩⟩
  · rw [hset, if_pos ⟨rfl, rfl⟩, hv]
  · rw [hset, if_neg hne]
    exact hold hc

/-- The next index of the body, and what follows it. -/
theorem Factor1Read.read (hb : b.Of1 s) (hcodes : ∀ j < b.codes, b.code j ≠ 15) (hn : n < b.nch * 32)
    (halloc : b.allocated n = true) (h : Factor1Read s b s0 n t) {β : Type} {k : BitVec 6 → Act β}
    {Q : β → State → Prop}
    (hk : ∀ v : BitVec 6, v.toNat = b.factor1 n → b.factor1 n ≠ 63 → b.factorPos1 (n + 1) ≤ s.fbSize →
      Ends (k v) Q (fun e _ => b.Fails1 e) (t.atBit (b.factorPos1 (n + 1)))) :
    Ends (readScfIndex >>= k) Q (fun e _ => b.Fails1 e) t := by
  have hsize := hb.fbSize
  have hnext := b.factorPos1_succ n
  have hvalue : b.factor1 n = bitsAt s.fb.bytes (b.factorPos1 n) 6 := by rw [BodyPlan.factor1, hb.bytes]
  have hcodes' : b.CodesAllowed := fun j hj _ => hcodes j hj
  rw [if_pos halloc] at hnext
  rw [readScfIndex_eq]
  refine h.body.readAllowed (hb.fbSize ▸ hb.size) (fun hend _ => ?_) (fun hin hbad _ => ?_) fun hin hgood => ?_
  · refine .short hcodes' (fun m _ ha hin => ?_) ?_
    · by_cases hm : m < n
      · exact h.allowed m hm ha
      · have hmono := b.factorPos1_mono (Nat.not_lt.mp hm)
        omega
    · have hmono : b.factorPos1 (n + 1) ≤ b.setPos1 12 := b.factorPos1_le_setPos1 hn
      omega
  · have hmono := b.factorPos1_mono (Nat.zero_le n)
    rw [b.factorPos1_zero] at hmono
    exact .factor (by omega) hcodes' (Nat.mul_comm 32 b.nch ▸ hn) halloc (by omega) (hvalue.trans hbad)
  · rw [← hnext] at hin ⊢
    exact hk _ ((toNat_bitsAt ..).trans hvalue.symm) (hvalue ▸ hgood) hin

/-- `readScfs1`: every index is what stands at its place, and is allowed. -/
theorem readScfs1_reads (hb : b.Of1 s) (h : Alloc1Read s b b.codesEnd (b.nch * 32) s0)
    (hcodes : ∀ j < b.codes, b.code j ≠ 15) :
    Ends (readScfs1 b.nch) (fun _ u => Factor1Read s b s0 (b.nch * 32) u) (fun e _ => b.Fails1 e) s0 := by
  unfold readScfs1
  refine ends_pairs ⟨h.body, rfl, doneUpTo_zero, fun _ hm => absurd hm (Nat.not_lt_zero _)⟩ fun sb hsb ch hch t ht => ?_
  have halloc : (t.alloc1 ch sb).toNat = b.alloc ch sb := by
    rw [← h.alloc.get le_rfl hsb hch, State.alloc1, State.alloc1, ht.alloc]
  rw [ends_bind, ends_get]
  by_cases hc : t.alloc1 ch sb = 0
  · rw [if_neg (not_not.mpr hc), ends_pure]
    exact ht.skip hch (by rw [← halloc, hc]; rfl)
  · rw [if_pos hc]
    refine ht.read hb hcodes (pair_lt hch hsb) ((BodyPlan.allocated_iff hch halloc).mpr hc) fun v hv hallowed hin => ?_
    exact (ends_modify _).mpr (ht.store hb.toOf hch hsb hin hv hallowed)

end

/-! ## The bit budget (R274) -/

/-- The registers hold the allocation and the scale factors of the plan. -/
structure Regs1 (b : BodyPlan) (t : State) : Prop where
  alloc : ∀ sb < 32, ∀ ch < b.nch, (t.alloc1 ch sb).toNat = b.alloc ch sb
  factor : ∀ sb < 32, ∀ ch < b.nch, b.alloc ch sb ≠ 0 → (t.scf1 ch sb).toNat = b.factor1 (b.nch * sb + ch)

theorem Factor1Read.regs (h0 : Alloc1Read s b p (b.nch * 32) s0) (h : Factor1Read s b s0 (b.nch * 32) t) :
    Regs1 b t where
  alloc sb hsb ch hch := by rw [← h0.alloc.get le_rfl hsb hch, State.alloc1, State.alloc1, h.alloc]
  factor _ hsb _ hch := h.factor.get le_rfl hsb hch

theorem Regs1.code (hb : b.Of1 s) (h : Regs1 b t) {ch sb : Nat} (hsb : sb < 32) (hch : ch < b.nch) :
    (t.alloc1 ch sb).toNat = b.code (b.index ch sb) :=
  (h.alloc sb hsb ch hch).trans (BodyPlan.alloc_eq (hb.length.symm ▸ hsb))

theorem Regs1.sampleBits (hb : b.Of1 s) (h : Regs1 b t) {ch sb : Nat} (hsb : sb < 32) (hch : ch < b.nch) :
    Machine.sampleBits1 (t.alloc1 ch sb) = b.sampleBits1 (b.index ch sb) := by
  have hcode := h.code hb hsb hch
  have hzero : t.alloc1 ch sb = 0 ↔ b.code (b.index ch sb) = 0 := by rw [← hcode, ← BitVec.toNat_inj]; rfl
  unfold Machine.sampleBits1 BodyPlan.sampleBits1
  rw [hcode]
  exact if_congr hzero rfl rfl

/-- The budget is twelve sample sets. -/
theorem budget1_eq (hb : b.Of1 s) (h : Regs1 b t) : budget1 b.nch b.bound t = 12 * b.offset1 b.codes := by
  have hone := hb.nch_pos
  unfold budget1 BodyPlan.offset1
  rw [← hb.sum_codes, hb.length]
  refine congrArg (fun l : List Nat => 12 * l.sum) (List.map_congr_left fun sb hsb => ?_)
  have hsb' : sb < 32 := List.mem_range.mp hsb
  split
  · exact congrArg List.sum (List.map_congr_left fun ch hch => h.sampleBits hb hsb' (List.mem_range.mp hch))
  · exact h.sampleBits hb hsb' hone

/-- The samples fit the body, or it is too short. -/
theorem checkBudget1_ends (hb : b.Of1 s) (h : Regs1 b t) (hbody : BodyRead own1 s (b.setPos1 0) t)
    {Q : Unit → State → Prop} (hcodes : b.CodesAllowed) (hfactors : b.FactorsAllowed)
    (hQ : b.setPos1 12 ≤ b.size → Q () t) :
    Ends (checkBudget1 b.nch b.bound) Q (fun e _ => b.Fails1 e) t := by
  have hpos : b.setPos1 0 + 12 * b.offset1 b.codes = b.setPos1 12 := by unfold BodyPlan.setPos1; ring
  have hcheck : checkBudget1 b.nch b.bound t = fbBudget (12 * b.offset1 b.codes) t :=
    congrArg (fbBudget · t) (budget1_eq hb h)
  rw [ends_congr hcheck, hbody.budget (hb.fbSize ▸ hb.size), hpos, ← hb.fbSize]
  split
  · exact .short hcodes hfactors ‹_›
  · exact hQ (Nat.not_lt.mp ‹_›)

/-! ## The samples (R275, R276) -/

/-- `2^nb / (2^nb - 1)` is one rounding of the ratio. -/
theorem packRatio_steps (num : NumSystem) : ∀ nb < 16, 2 ≤ nb →
    Num.packRatio num false (2 ^ nb) (2 ^ nb - 1) 0 =
      Num.div num (Num.ofNat num (2 ^ nb)) (Num.ofNat num (2 ^ nb - 1)) := by
  cases num <;> decide +kernel

theorem sample1_eq {r nb : Nat} (hnb : 2 ≤ nb) (hlt : nb < 16) (t : State) (scf : BitVec 6) :
    Machine.sample1 t r nb scf = dequantised1 t.cfg.num r nb scf.toNat := by
  have hexp : -((nb - 1 : Nat) : Int) = 1 - (nb : Int) := by omega
  unfold Machine.sample1 dequant1 dequant dequantised1
  rw [packRatio_steps _ _ hlt hnb, hexp]
  push_cast
  rfl

/-- The sample of a channel and a subband in sample set i. -/
def BodyPlan.value1 (b : BodyPlan) (num : NumSystem) (i ch sb : Nat) : Sample :=
  if b.alloc ch sb = 0 then Num.zero
  else dequantised1 num (b.sample1 i (b.index ch sb)) (b.alloc ch sb + 1) (b.factor1 (b.nch * sb + ch))

/-- The body is read up to bit p, and the samples of the first k sets and of the first n pairs of set k are stored; the
allocation and the scale factors are those of s1. -/
structure Samples1Read (s : State) (b : BodyPlan) (s1 : State) (p k n : Nat) (t : State) : Prop where
  body : BodyRead own1 s p t
  regs : t.tr.l1 = s1.tr.l1
  grid : SetsDone b.nch k n fun i ch sb => rd (rd (rd t.tr.grid ch) sb) i = b.value1 s.cfg.num i ch sb

section
variable {k ch sb : Nat}

theorem Samples1Read.regs1 (h : Samples1Read s b s1 p k n t) (hregs : Regs1 b s1) : Regs1 b t := by
  constructor
  · intro sb hsb ch hch
    rw [State.alloc1, h.regs]
    exact hregs.alloc sb hsb ch hch
  · intro sb hsb ch hch
    rw [State.scf1, h.regs]
    exact hregs.factor sb hsb ch hch

theorem Samples1Read.store (hb : b.Of s) (h : Samples1Read s b s1 p k (b.nch * sb + ch) t) (hk : k < 12) (hsb : sb < 32)
    (hch : ch < b.nch) {x : Sample} (hx : x = b.value1 s.cfg.num k ch sb) :
    Samples1Read s b s1 p k (b.nch * sb + ch + 1) (setGrid ch sb k x t) := by
  have hset := grid_setGrid (hb.ch_lt hch) hsb (show k < 36 by omega) x t
  refine ⟨h.body.withGrid1 _, h.regs, h.grid.succ hch ?_ fun i c sb' hne hold => ?_⟩
  · rw [hset, if_pos ⟨rfl, rfl, rfl⟩, hx]
  · rw [hset, if_neg fun heq => hne ⟨heq.2.2.symm, heq.1, heq.2.1⟩]
    exact hold

/-- The sample is stored for every channel. -/
theorem Samples1Read.storeAll (hb : b.Of s) (h : Samples1Read s b s1 p k (b.nch * sb) t) (hk : k < 12) (hsb : sb < 32)
    {x : Nat → State → Sample}
    (hx : ∀ ch < b.nch, ∀ n u, Samples1Read s b s1 p k n u → x ch u = b.value1 s.cfg.num k ch sb) :
    Samples1Read s b s1 p k (b.nch * (sb + 1)) (loop b.nch (fun ch u => setGrid ch sb k (x ch u) u) t) :=
  loop_induct (P := fun ch u => Samples1Read s b s1 p k (b.nch * sb + ch) u) h fun ch u hch hu =>
    hu.store hb hk hsb hch (hx ch hch _ u hu)

/-- A channel that has no code has no sample. -/
theorem Regs1.value1_zero (h : Regs1 b t) (hsb : sb < 32) (hch : ch < b.nch) (hc : t.alloc1 ch sb = 0)
    (num : NumSystem) :
    b.value1 num k ch sb = Num.zero :=
  if_pos (by rw [← h.alloc sb hsb ch hch, hc]; rfl)

/-- The sample of a channel whose code is that of channel c. -/
theorem Samples1Read.value (hb : b.Of1 s) (h : Samples1Read s b s1 p k n t) (hregs : Regs1 b s1) (hsb : sb < 32)
    {c : Nat} (hc : c < b.nch) (hch : ch < b.nch) (hindex : b.index ch sb = b.index c sb)
    (hcodes : ∀ j < b.codes, b.code j ≠ 15) {a : BitVec 4} (ha : a.toNat = b.code (b.index c sb)) (ha0 : a ≠ 0) :
    Machine.sample1 t (b.sample1 k (b.index c sb)) (Machine.sampleBits1 a) (t.scf1 ch sb) =
      b.value1 s.cfg.num k ch sb := by
  have halloc : a.toNat = b.alloc ch sb := by rw [ha, BodyPlan.alloc_eq (hb.length.symm ▸ hsb), hindex]
  have hpos : a.toNat ≠ 0 := fun h0 => ha0 (BitVec.eq_of_toNat_eq h0)
  have hallowed := hcodes _ (hb.index_lt hc (hb.length.symm ▸ hsb))
  have hbits : Machine.sampleBits1 a = a.toNat + 1 := if_neg ha0
  have hlt := a.isLt
  rw [hbits, sample1_eq (by omega) (by omega), h.body.cfg, BodyPlan.value1, ← halloc, if_neg hpos, hindex,
    (h.regs1 hregs).factor sb hsb ch hch (halloc ▸ hpos)]

/-- The next sample of the body, and what follows it. -/
theorem Samples1Read.read (hb : b.Of1 s) {β : Type} {Q : β → State → Prop} {kont : Nat → Act β}
    (hroom : b.setPos1 12 ≤ b.size) (h : Samples1Read s b s1 (b.setPos1 k + b.offset1 (b.index ch sb)) k n t)
    (hregs : Regs1 b s1) (hk : k < 12) (hsb : sb < 32) (hch : ch < b.nch)
    (hkont : ∀ u, Samples1Read s b s1 (b.setPos1 k + b.offset1 (b.index ch sb + 1)) k n u →
      Ends (kont (b.sample1 k (b.index ch sb))) Q (fun e _ => b.Fails1 e) u) :
    Ends (fbBits (Machine.sampleBits1 (t.alloc1 ch sb)) >>= kont) Q (fun e _ => b.Fails1 e) t := by
  have hlast := b.sample_le_setPos1 hk (hb.index_lt hch (hb.length.symm ▸ hsb))
  have hsize := hb.fbSize
  rw [b.offset1_succ] at hlast hkont
  rw [(h.regs1 hregs).sampleBits hb hsb hch]
  refine h.body.read (hb.fbSize ▸ hb.size) (fun hn => absurd hn (by omega)) fun hn => ?_
  rw [← hb.bytes]
  rw [Nat.add_assoc] at hn ⊢
  exact hkont _ ⟨h.body.atBit hn, h.regs, h.grid⟩

/-- A channel that has no code takes no bits. -/
theorem Regs1.offset1_zero (hb : b.Of1 s) (h : Regs1 b t) (hsb : sb < 32) (hch : ch < b.nch) (hc : t.alloc1 ch sb = 0) :
    b.offset1 (b.index ch sb + 1) = b.offset1 (b.index ch sb) := by
  rw [b.offset1_succ, ← h.sampleBits hb hsb hch, hc]
  rfl

/-- `readSample1` over the subbands of set k. -/
theorem readSet1_reads (hb : b.Of1 s) (hroom : b.setPos1 12 ≤ b.size) (hcodes : ∀ j < b.codes, b.code j ≠ 15)
    (hregs : Regs1 b s1) (hk : k < 12) (h : Samples1Read s b s1 (b.setPos1 k) k 0 t) :
    Ends (forEach 32 fun sb => readSample1 b.nch b.bound k sb)
      (fun _ u => Samples1Read s b s1 (b.setPos1 (k + 1)) (k + 1) 0 u) (fun e _ => b.Fails1 e) t := by
  have hlen := hb.length
  have hone := hb.nch_pos
  refine (ends_codes hb.toOf (P := fun j n t => Samples1Read s b s1 (b.setPos1 k + b.offset1 j) k n t)
    h (fun sb hsb => if_pos hsb) (fun sb hsb ch hch t ht => ?_)
    (fun sb hge hsb t ht => ?_) fun sb hge hsb => absurd hge (by omega)).mono (fun _ u hu => ?_) fun _ _ he => he
  · have hsb : sb < 32 := by have := hb.bound; omega
    have hregs' := ht.regs1 hregs
    rw [ends_bind, ends_get]
    by_cases hc : t.alloc1 ch sb = 0
    · dsimp only
      rw [if_pos hc, ends_modify, hregs'.offset1_zero hb hsb hch hc]
      exact ht.store hb.toOf hk hsb hch (hregs'.value1_zero hsb hch hc _).symm
    · dsimp only
      rw [if_neg hc]
      refine ht.read hb hroom hregs hk hsb hch fun u hu => (ends_modify _).mpr ?_
      exact hu.store hb.toOf hk hsb hch
        (hu.value hb hregs hsb hch hch rfl hcodes (hregs'.code hb hsb hch) hc)
  · have hsb : sb < 32 := hlen ▸ hsb
    have hregs' := ht.regs1 hregs
    have hindex : ∀ ch, b.index ch sb = b.index 0 sb := fun ch => by
      rw [BodyPlan.index_shared hge, BodyPlan.index_shared hge]
    rw [if_neg (Nat.not_lt.mpr hge), ends_bind, ends_get]
    by_cases hc : t.alloc1 0 sb = 0
    · dsimp only
      rw [if_pos hc, ends_modify, hregs'.offset1_zero hb hsb hone hc]
      refine ht.storeAll hb.toOf hk hsb fun ch hch _ u hu => ((hu.regs1 hregs).value1_zero hsb hch ?_ _).symm
      have hu' := hu.regs1 hregs
      refine BitVec.eq_of_toNat_eq ?_
      rw [hu'.code hb hsb hch, hindex, ← hregs'.code hb hsb hone, hc]
    · dsimp only
      rw [if_neg hc]
      refine ht.read hb hroom hregs hk hsb hone fun u hu => (ends_modify _).mpr ?_
      exact hu.storeAll hb.toOf hk hsb fun ch hch _ w hw =>
        hw.value hb hregs hsb hone hch (hindex ch) hcodes (hregs'.code hb hsb hone) hc
  · rw [b.setPos1_succ]
    exact ⟨hu.body, hu.regs, hu.grid.nextSet⟩

end

theorem readSamples1_reads (hb : b.Of1 s) (hroom : b.setPos1 12 ≤ b.size) (hcodes : ∀ j < b.codes, b.code j ≠ 15)
    (hregs : Regs1 b s1) (h : BodyRead own1 s (b.setPos1 0) s1) :
    Ends (readSamples1 b.nch b.bound) (fun _ u => Samples1Read s b s1 (b.setPos1 12) 12 0 u)
      (fun e _ => b.Fails1 e) s1 := by
  unfold readSamples1
  exact ends_forEach (P := fun k t => Samples1Read s b s1 (b.setPos1 k) k 0 t) ⟨h, rfl, setsDone_zero⟩
    fun k hk t ht => readSet1_reads hb hroom hcodes hregs hk ht

/-! ## The body (R271) -/

theorem layer1Plan_of1 (hnch : s.nch = 1 ∨ s.nch = 2) (hsize : s.fbSize < 2 ^ 32) : (layer1Plan s).Of1 s where
  bytes := rfl
  nch := hnch
  bound := jointBound_le s
  limit := le_rfl
  size := hsize
  widths := rfl

/-- What `L1Decode` reads, or how it fails (R271 to R276). -/
theorem parse1_reads (hb : b.Of1 s) (hplan : b = layer1Plan s) :
    Ends (parse1 b.nch b.bound)
      (fun _ t => b.Fits1 ∧ ∃ s1, Regs1 b s1 ∧ Samples1Read s b s1 (b.setPos1 12) 12 0 t)
      (fun e _ => b.Fails1 e) s := by
  have hpos : b.pos = s.fb.pos.toNat + if s.hdr.fields.protection = 0 then 16 else 0 := by rw [hplan]; rfl
  have hsize := hb.fbSize
  unfold parse1
  rw [ends_bind]
  refine (skipCheckWord_reads (own := own1) rfl (hb.fbSize ▸ hb.size) fun hshort _ => ?_).mono
    (fun _ t0 h0 => ?_) fun _ _ he => he
  · have hout : ∀ j, b.size < b.codePos j := fun j => by
      have hmono := b.codePos_mono (Nat.zero_le j)
      rw [b.codePos_zero, hpos] at hmono
      omega
    refine .short (fun j _ hin => absurd hin (hout _).not_ge) (fun n _ _ hin => ?_)
      ((hout _).trans_le (b.codePos_le_setPos1 le_rfl))
    have hmono := b.factorPos1_mono (Nat.zero_le n)
    have hlast : b.size < b.factorPos1 0 := hout _
    omega
  rw [← hpos] at h0
  rw [ends_bind]
  refine (readAllocs1_reads hb ⟨h0, doneUpTo_zero⟩).mono (fun _ s0 ⟨hs0, hcodes⟩ => ?_) fun _ _ he => he
  rw [ends_bind]
  refine (readScfs1_reads hb hs0 hcodes).mono (fun _ s1 hs1 => ?_) fun _ _ he => he
  have hregs := hs1.regs hs0
  have hfactors : ∀ n < 32 * b.nch, b.allocated n = true → b.factor1 n ≠ 63 := fun n hn => hs1.allowed n (by omega)
  have hbody := hs1.body
  rw [← b.setPos1_zero] at hbody
  rw [ends_bind]
  refine checkBudget1_ends hb hregs hbody (fun j hj _ => hcodes j hj) (fun n hn ha _ => hfactors n hn ha)
    fun hroom => ?_
  exact (readSamples1_reads hb hroom hcodes hregs hbody).mono
    (fun _ t ht => ⟨⟨hcodes, hfactors, hroom⟩, s1, hregs, ht⟩) fun _ _ he => he

theorem decodeLayer1_eq (s : State) :
    decodeLayer 1 s = match parse1 s.nch s.jointBound s with
      | .ok _ t => .ok () (feedGrid 12 s.nch t)
      | .error e t => .error e t := by
  show EStateM.bind (parse1 s.nch s.jointBound) (fun _ => modify (feedGrid 12 s.nch)) s = _
  unfold EStateM.bind
  cases parse1 s.nch s.jointBound s <;> rfl

/-- The registers of a body that was read hold what the plan says. -/
theorem Samples1Read.spec (h : Samples1Read s b s1 (b.setPos1 12) 12 0 t) (hregs : Regs1 b s1) :
    t = { s with fb := t.fb, tr := { s.tr with l1 := t.tr.l1, grid := t.tr.grid } } ∧
    t.fb = { s.fb with pos := BitVec.ofNat 32 (b.setPos1 12) } ∧
    ∀ ch < b.nch, ∀ sb < 32,
      (t.alloc1 ch sb).toNat = b.alloc ch sb ∧
      (b.alloc ch sb ≠ 0 → (t.scf1 ch sb).toNat = b.factor1 (b.nch * sb + ch)) ∧
      ∀ i < 12, rd (rd (rd t.tr.grid ch) sb) i = b.value1 s.cfg.num i ch sb :=
  ⟨h.body.frame, h.body.fb, fun ch hch sb hsb =>
    ⟨(h.regs1 hregs).alloc sb hsb ch hch, (h.regs1 hregs).factor sb hsb ch hch,
      fun i hi => (h.grid.sets i hi).get le_rfl hsb hch⟩⟩

/-- Settles O26: the ways in which the body can fail exclude each other and a body that fits, so each clause follows from
the one statement about how reading ends. -/
theorem layerOneBodyIsRead : Obligations.LayerOneBodyIsRead := by
  unfold Obligations.LayerOneBodyIsRead
  refine ⟨fun _ _ _ => rfl, fun s b hplan hnch hsize => ?_⟩
  have hb : b.Of1 s := by
    rw [hplan] at hsize ⊢
    exact layer1Plan_of1 hnch hsize
  have hreads := parse1_reads hb hplan
  have hbn : b.nch = s.nch := by rw [hplan]; rfl
  have hbb : b.bound = s.jointBound := by rw [hplan]; rfl
  rw [hbn, hbb] at hreads
  refine ⟨hbb, jointBound_spec s, decodeLayer1_eq s, feedGrid_fedGrid 12 (by omega), fun hbad => ?_, fun hcodes =>
    ⟨fun hshort => ?_, fun hin hbad => ?_, fun hfactors hshort => ?_⟩, fun hfits => ?_⟩
  · obtain ⟨j, hj, hin, hbad⟩ := hbad
    obtain ⟨e, t, hend, hfail⟩ := hreads.exists_error fun _ t ht => ht.1.codes j hj hbad
    cases hfail with
    | code => exact ⟨t, hend⟩
    | factor => exact ⟨t, hend⟩
    | short hcodes => exact absurd hbad (hcodes j hj hin)
  · obtain ⟨e, t, hend, hfail⟩ := hreads.exists_error fun _ t ht =>
      absurd ((b.codePos_le_setPos1 le_rfl).trans ht.1.room) hshort.not_ge
    cases hfail with
    | code hj hin hbad => exact absurd hbad (hcodes _ hj hin)
    | factor hin => exact absurd hin hshort.not_ge
    | short => exact ⟨t, hend⟩
  · obtain ⟨n, hn, halloc, hin, hbad⟩ := hbad
    obtain ⟨e, t, hend, hfail⟩ := hreads.exists_error fun _ t ht => ht.1.factors n hn halloc hbad
    cases hfail with
    | code => exact ⟨t, hend⟩
    | factor => exact ⟨t, hend⟩
    | short _ hfactors => exact absurd hbad (hfactors n hn halloc hin)
  · obtain ⟨e, t, hend, hfail⟩ := hreads.exists_error fun _ t ht => absurd ht.1.room hshort.not_ge
    cases hfail with
    | code hj hin hbad => exact absurd hbad (hcodes _ hj hin)
    | factor _ _ hn halloc hin hbad => exact absurd hbad (hfactors _ hn halloc hin)
    | short => exact ⟨t, hend⟩
  · obtain ⟨_, t, hend, -, s1, hregs, ht⟩ := hreads.exists_ok fun e t hfail => by
      cases hfail with
      | code hj hin hbad => exact hfits.codes _ hj hbad
      | factor _ _ hn halloc hin hbad => exact hfits.factors _ hn halloc hbad
      | short _ _ hshort => exact absurd hfits.room hshort.not_ge
    exact ⟨t, hend, hbn ▸ ht.spec hregs⟩

end

end Sys2Proof.Machine
end

section
/-! PROOFS. The body of a Layer II frame, first part: tables, places, allocation, selection and scale factors (R291 to
R298). -/

-- One theorem after another: threads that wait for each other exhaust the memory limit with their stacks.
set_option Elab.async false

namespace Sys2Proof.Machine

open Act

/-! ## The printed tables (R293, R300) -/

/-- A row of a printed table: the table, the first and the last subband, the bits of a code, and the classes. -/
abbrev PrintedRow := List AllocRow × Nat × Nat × Nat × List Nat

/-- The row says what the table holds for subband sb. -/
def PrintedRow.Holds (row : PrintedRow) (sb : Nat) : Prop :=
  ((allocRow row.1 sb).nbal : Nat) = row.2.2.2.1 ∧ (allocRow row.1 sb).classes = row.2.2.2.2

/-- Rows of the first 30 subbands are checked subband by subband. -/
theorem holds_of_bounded {rows : List PrintedRow}
    (h : ∀ row ∈ rows, row.2.2.1 < 30 ∧ ∀ sb < 30, row.2.1 ≤ sb → sb ≤ row.2.2.1 →
      ((allocRow row.1 sb).nbal : Nat) = row.2.2.2.1 ∧ (allocRow row.1 sb).classes = row.2.2.2.2) :
    ∀ row ∈ rows, ∀ sb, row.2.1 ≤ sb → sb ≤ row.2.2.1 → row.Holds sb :=
  fun row hrow sb hlo hhi => (h row hrow).2 sb (hhi.trans_lt (h row hrow).1) hlo hhi

/-! ## The places of a Layer II body -/

/-- The transient registers that `L2Decode` owns. -/
def own2 (a b : Transient) : Transient := { a with l2 := b.l2, grid := b.grid }

/-- b is the plan of the Layer II body in s, with allocation table t. -/
structure BodyPlan.Of2 (b : BodyPlan) (s : State) (t : List AllocRow) : Prop extends b.Of s where
  widths : ∀ sb < b.nbal.length, b.nbal.getD sb 0 = (allocRow t sb).nbal

section
variable {b : BodyPlan} {s : State} {table : List AllocRow}

/-- Where the selection of pair n stands. -/
def BodyPlan.selectPos (b : BodyPlan) (n : Nat) : Nat := b.codesEnd + 2 * (b.before n).length

theorem BodyPlan.selectPos_succ (b : BodyPlan) (n : Nat) :
    b.selectPos (n + 1) = b.selectPos n + if b.allocated n then 2 else 0 := by
  unfold BodyPlan.selectPos
  rw [b.before_succ, List.length_append]
  split <;> simp [Nat.mul_add, Nat.add_assoc]

theorem BodyPlan.selectPos_mono (b : BodyPlan) : Monotone b.selectPos :=
  monotone_nat_of_le_succ fun n => by rw [b.selectPos_succ]; exact Nat.le_add_right ..

theorem BodyPlan.factorPos2_succ (b : BodyPlan) (n : Nat) :
    b.factorPos2 (n + 1) = b.factorPos2 n + if b.allocated n then 6 * b.sent n else 0 := by
  unfold BodyPlan.factorPos2
  rw [b.before_succ, List.map_append, List.sum_append]
  split <;> simp [Nat.mul_add, Nat.add_assoc]

theorem BodyPlan.factorPos2_mono (b : BodyPlan) : Monotone b.factorPos2 :=
  monotone_nat_of_le_succ fun n => by rw [b.factorPos2_succ]; exact Nat.le_add_right ..

theorem BodyPlan.offset2_succ (b : BodyPlan) (c : Config) (t : List AllocRow) (j : Nat) :
    b.offset2 c t (j + 1) = b.offset2 c t j + b.tripleBits2 c t j := by
  unfold BodyPlan.offset2
  rw [List.range_succ, List.map_append, List.sum_append]
  rfl

theorem BodyPlan.offset2_mono (b : BodyPlan) (c : Config) (t : List AllocRow) : Monotone (b.offset2 c t) :=
  monotone_nat_of_le_succ fun j => by rw [b.offset2_succ]; exact Nat.le_add_right ..

theorem BodyPlan.setPos2_zero (b : BodyPlan) (c : Config) (t : List AllocRow) :
    b.setPos2 c t 0 = b.factorPos2 (b.nch * b.nbal.length) := by
  unfold BodyPlan.setPos2
  rw [Nat.zero_mul]
  rfl

theorem BodyPlan.setPos2_succ (b : BodyPlan) (c : Config) (t : List AllocRow) (i : Nat) :
    b.setPos2 c t (i + 1) = b.setPos2 c t i + b.offset2 c t b.codes := by
  unfold BodyPlan.setPos2
  ring

theorem BodyPlan.setPos2_mono (b : BodyPlan) (c : Config) (t : List AllocRow) : Monotone (b.setPos2 c t) :=
  monotone_nat_of_le_succ fun i => by rw [b.setPos2_succ]; exact Nat.le_add_right ..

theorem BodyPlan.codePos_le_factorPos2 (b : BodyPlan) {j : Nat} (hj : j ≤ b.codes) (n : Nat) :
    b.codePos j ≤ b.factorPos2 n :=
  calc b.codePos j ≤ b.codesEnd := b.codePos_mono hj
    _ ≤ b.selectPos (b.nch * b.nbal.length) := b.selectPos_mono (Nat.zero_le _)
    _ ≤ b.factorPos2 n := b.factorPos2_mono (Nat.zero_le n)

theorem BodyPlan.selectPos_le_factorPos2 (b : BodyPlan) {m : Nat} (hm : m ≤ b.nch * b.nbal.length) (n : Nat) :
    b.selectPos m ≤ b.factorPos2 n :=
  (b.selectPos_mono hm).trans (b.factorPos2_mono (Nat.zero_le n))

theorem BodyPlan.factorPos2_le_setPos2 (b : BodyPlan) (c : Config) (t : List AllocRow) {n : Nat}
    (hn : n ≤ b.nch * b.nbal.length) : b.factorPos2 n ≤ b.setPos2 c t 12 :=
  (b.factorPos2_mono hn).trans (b.setPos2_zero c t ▸ b.setPos2_mono c t (Nat.zero_le 12))

/-- Every triple lies before the end of the triples. -/
theorem BodyPlan.triple_le_setPos2 (b : BodyPlan) (c : Config) (t : List AllocRow) {i j : Nat} (hi : i < 12)
    (hj : j < b.codes) : b.setPos2 c t i + b.offset2 c t (j + 1) ≤ b.setPos2 c t 12 :=
  calc b.setPos2 c t i + b.offset2 c t (j + 1) ≤ b.setPos2 c t i + b.offset2 c t b.codes :=
        Nat.add_le_add_left (b.offset2_mono c t hj) _
    _ = b.setPos2 c t (i + 1) := (b.setPos2_succ c t i).symm
    _ ≤ b.setPos2 c t 12 := b.setPos2_mono c t hi

theorem BodyPlan.Of2.codePos_index (h : b.Of2 s table) {ch sb : Nat} (hch : ch < b.nch) (hsb : sb < b.nbal.length) :
    b.codePos (b.index ch sb + 1) = b.codePos (b.index ch sb) + (allocRow table sb).nbal ∧
      b.code (b.index ch sb) = bitsAt s.fb.bytes (b.codePos (b.index ch sb)) (allocRow table sb).nbal := by
  rw [b.codePos_succ, BodyPlan.code, h.subband_index hch, h.widths sb hsb, h.bytes]
  exact ⟨rfl, rfl⟩

/-! ## How the body fails -/

/-- No scale-factor index that lies in the body is forbidden. -/
def BodyPlan.FactorsAllowed2 (b : BodyPlan) : Prop :=
  ∀ n < b.nch * b.nbal.length, b.allocated n = true → ∀ i < b.sent n, b.factorPos2 n + 6 * (i + 1) ≤ b.size →
    b.index2 n i ≠ 63

/-- How `L2Decode` fails, and when. -/
inductive BodyPlan.Fails2 (b : BodyPlan) (c : Config) (t : List AllocRow) : Code → Prop
  | factor {n i : Nat} (hn : n < b.nch * b.nbal.length) (halloc : b.allocated n = true) (hi : i < b.sent n)
      (hin : b.factorPos2 n + 6 * (i + 1) ≤ b.size) (hbad : b.index2 n i = 63) : b.Fails2 c t .reservedValue
  | short (hfactors : b.FactorsAllowed2) (hroom : b.size < b.setPos2 c t 12) : b.Fails2 c t .streamExhausted

/-- A body that ends before its scale factors is too short. -/
theorem BodyPlan.fails2_early {c : Config} (h : b.size < b.factorPos2 0) : b.Fails2 c table .streamExhausted := by
  refine .short (fun n _ _ i _ hin => ?_) (h.trans_le (b.factorPos2_le_setPos2 c table (Nat.zero_le _)))
  have hmono := b.factorPos2_mono (Nat.zero_le n)
  omega

/-! ## The allocation (R296) -/

theorem alloc2_setAlloc2 {ch sb : Nat} (hch : ch < 2) (hsb : sb < 32) (v : BitVec 4) (t : State) (c b : Nat) :
    (setAlloc2 ch sb v t).alloc2 c b = if ch = c ∧ sb = b then v else t.alloc2 c b :=
  rd_upd_upd t.tr.l2.alloc hch hsb (fun _ => v) c b

theorem scfsi2_setScfsi2 {ch sb : Nat} (hch : ch < 2) (hsb : sb < 32) (v : BitVec 2) (t : State) (c b : Nat) :
    (setScfsi2 ch sb v t).scfsi2 c b = if ch = c ∧ sb = b then v else t.scfsi2 c b :=
  rd_upd_upd t.tr.l2.scfsi hch hsb (fun _ => v) c b

theorem scf2_setScf2 {ch sb : Nat} (hch : ch < 2) (hsb : sb < 32) (x y z : BitVec 6) (t : State) (c b p : Nat) :
    (setScf2 ch sb x y z t).scf2 c b p = if ch = c ∧ sb = b then rd #v[x, y, z] p else t.scf2 c b p := by
  show rd (rd (rd (upd t.tr.l2.scf ch fun row => upd row sb fun _ => #v[x, y, z]) c) b) p = _
  rw [rd_upd_upd t.tr.l2.scf hch hsb]
  split <;> rfl

/-- The body is read up to bit p, and the allocation of the first n pairs is stored. -/
structure Alloc2Read (s : State) (b : BodyPlan) (p n : Nat) (t : State) : Prop where
  body : BodyRead own2 s p t
  alloc : DoneUpTo b.nch n fun ch sb => (t.alloc2 ch sb).toNat = b.alloc ch sb

end

section
variable {s s0 s1 t : State} {b : BodyPlan} {p n ch sb : Nat} {table : List AllocRow}

theorem Alloc2Read.atBit (h : Alloc2Read s b p n t) {q : Nat} (hq : q ≤ s.fbSize) : Alloc2Read s b q n (t.atBit q) :=
  ⟨h.body.atBit hq, h.alloc⟩

theorem BodyRead.withL2 (h : BodyRead own2 s p t) (x : Layer2Regs) :
    BodyRead own2 s p (t.withTr { t.tr with l2 := x }) :=
  h.withTr (congrArg (fun tr : Transient => { tr with l2 := x }) h.ownTr)

theorem BodyRead.withGrid2 (h : BodyRead own2 s p t) (x : Vector (Vector (Vector Sample 36) 32) 2) :
    BodyRead own2 s p (t.withTr { t.tr with grid := x }) :=
  h.withTr (congrArg (fun tr : Transient => { tr with grid := x }) h.ownTr)

theorem Alloc2Read.store (hb : b.Of s) (h : Alloc2Read s b p (b.nch * sb + ch) t) (hch : ch < b.nch)
    (hsb : sb < 32) {v : BitVec 4} (hv : v.toNat = b.alloc ch sb) :
    Alloc2Read s b p (b.nch * sb + ch + 1) (setAlloc2 ch sb v t) := by
  have hset := alloc2_setAlloc2 (hb.ch_lt hch) hsb v t
  refine ⟨h.body.withL2 _, h.alloc.succ hch ?_ fun c sb' hne hold => ?_⟩
  · rw [hset, if_pos ⟨rfl, rfl⟩, hv]
  · rw [hset, if_neg hne, hold]

/-- The next code of the body, and what follows it. -/
theorem readAlloc2_reads (hb : b.Of2 s table) (hch : ch < b.nch) (hsb : sb < b.nbal.length) {β : Type}
    {k : Nat → Act β} {Q : β → State → Prop} (h : BodyRead own2 s (b.codePos (b.index ch sb)) t)
    (hk : (BitVec.ofNat 4 (b.code (b.index ch sb))).toNat = b.code (b.index ch sb) →
      b.codePos (b.index ch sb + 1) ≤ s.fbSize →
      Ends (k (b.code (b.index ch sb))) Q (fun e _ => b.Fails2 s.cfg table e)
        (t.atBit (b.codePos (b.index ch sb + 1)))) :
    Ends (fbBits (allocRow table sb).nbal >>= k) Q (fun e _ => b.Fails2 s.cfg table e) t := by
  have hj := hb.index_lt hch hsb
  obtain ⟨hnext, hcode⟩ := hb.codePos_index hch hsb
  have hsize := hb.fbSize
  have hfits : b.code (b.index ch sb) < 2 ^ 4 := by
    rw [hcode]
    exact (bitsAt_lt ..).trans_le (Nat.pow_le_pow_right (by decide) (Nat.le_of_lt_succ (allocRow table sb).nbal.isLt))
  refine h.read (hb.fbSize ▸ hb.size) (fun hn => b.fails2_early ?_) fun hn => ?_
  · have hmono := b.codePos_le_factorPos2 (j := b.index ch sb + 1) hj 0
    omega
  · rw [← hcode, ← hnext]
    exact hk (Nat.mod_eq_of_lt hfits) (hnext ▸ hn)

/-- `readAllocs2`: every code is what stands at its place. -/
theorem readAllocs2_reads (hb : b.Of2 s table) (h : Alloc2Read s b b.pos 0 t) :
    Ends (readAllocs2 table b.nbal.length b.nch b.bound)
      (fun _ u => Alloc2Read s b b.codesEnd (b.nch * 32) u) (fun e _ => b.Fails2 s.cfg table e) t := by
  have hone := hb.nch_pos
  have hlimit := hb.limit
  unfold readAllocs2
  refine ends_codes hb.toOf (P := fun j n t => Alloc2Read s b (b.codePos j) n t)
    h (fun sb hsb => if_pos hsb) (fun sb hsb ch hch t ht => ?_) (fun sb hge hsb t ht => ?_) fun sb hge hsb t ht => ?_
  · have hsb' : sb < b.nbal.length := hsb.trans_le hb.bound
    refine readAlloc2_reads hb hch hsb' ht.body fun hv hin => ?_
    exact (ends_modify _).mpr ((ht.atBit hin).store hb.toOf hch (by omega) (hv.trans (BodyPlan.alloc_eq hsb').symm))
  · rw [if_neg (Nat.not_lt.mpr hge), if_pos hsb]
    refine readAlloc2_reads hb hone hsb ht.body fun hv hin => ?_
    have hvalue : ∀ ch, (BitVec.ofNat 4 (b.code (b.index 0 sb))).toNat = b.alloc ch sb := fun ch => by
      rw [hv, BodyPlan.alloc_eq hsb, BodyPlan.index_shared hge, BodyPlan.index_shared hge]
    refine (ends_eachChannel hb.nch fun ch => setAlloc2 ch sb (BitVec.ofNat 4 (b.code (b.index 0 sb)))).mpr ?_
    exact loop_induct (P := fun ch u => Alloc2Read s b _ (b.nch * sb + ch) u) (ht.atBit hin) fun ch u hch hu =>
      hu.store hb.toOf hch (by omega) (hvalue ch)
  · have hbound := hb.bound
    rw [if_neg (by omega), if_neg (by omega), ends_modify]
    exact loop_induct (P := fun ch u => Alloc2Read s b b.codesEnd (b.nch * sb + ch) u) ht fun ch u hch hu =>
      hu.store hb.toOf hch hsb (if_neg (Nat.not_lt.mpr hge)).symm

/-! ## The selection (R297) -/

/-- The allocation of s0 stands, and the selection of the first n pairs is stored. -/
structure Select2Read (s : State) (b : BodyPlan) (s0 : State) (n : Nat) (t : State) : Prop where
  body : BodyRead own2 s (b.selectPos n) t
  alloc : t.tr.l2.alloc = s0.tr.l2.alloc
  select : DoneUpTo b.nch n fun ch sb => b.alloc ch sb ≠ 0 → (t.scfsi2 ch sb).toNat = b.select (b.nch * sb + ch)

/-- `readScfsi2`: every selection is what stands at its place. -/
theorem readScfsi2_reads (hb : b.Of2 s table) (h : Alloc2Read s b b.codesEnd (b.nch * 32) s0) :
    Ends (readScfsi2 b.nbal.length b.nch) (fun _ u => Select2Read s b s0 (b.nch * b.nbal.length) u)
      (fun e _ => b.Fails2 s.cfg table e) s0 := by
  have hsize := hb.fbSize
  have hlimit := hb.limit
  unfold readScfsi2
  refine ends_pairs ⟨h.body, rfl, doneUpTo_zero⟩ fun sb hsb ch hch t ht => ?_
  have halloc : (t.alloc2 ch sb).toNat = b.alloc ch sb := by
    rw [← h.alloc.get le_rfl (hsb.trans_le hlimit) hch, State.alloc2, State.alloc2, ht.alloc]
  have hpair := BodyPlan.allocated_iff hch halloc
  have hnext := b.selectPos_succ (b.nch * sb + ch)
  rw [ends_bind, ends_get]
  by_cases hc : t.alloc2 ch sb = 0
  · rw [if_neg (not_not.mpr hc), ends_pure]
    rw [if_neg (mt hpair.mp (not_not.mpr hc)), Nat.add_zero] at hnext
    have hzero : b.alloc ch sb = 0 := by rw [← halloc, hc]; rfl
    exact ⟨by rw [hnext]; exact ht.body, ht.alloc, ht.select.succ hch (absurd hzero) fun _ _ _ => id⟩
  · rw [if_pos hc]
    rw [if_pos (hpair.mpr hc)] at hnext
    refine ht.body.read (hb.fbSize ▸ hb.size) (fun hn => b.fails2_early ?_) fun hn => ?_
    · have hmono := b.selectPos_le_factorPos2 (m := b.nch * sb + ch + 1) (pair_lt hch hsb) 0
      omega
    · have hset := scfsi2_setScfsi2 (hb.ch_lt hch) (hsb.trans_le hlimit)
        (BitVec.ofNat 2 (bitsAt s.fb.bytes (b.selectPos (b.nch * sb + ch)) 2))
        (t.atBit (b.selectPos (b.nch * sb + ch) + 2))
      rw [← hnext] at hn hset
      rw [ends_modify, ← hnext]
      refine ⟨(ht.body.atBit hn).withL2 _, ht.alloc, ht.select.succ hch (fun _ => ?_) fun c sb' hne hold hc => ?_⟩
      · rw [hset, if_pos ⟨rfl, rfl⟩, BodyPlan.select, hb.bytes]
        exact toNat_bitsAt ..
      · rw [hset, if_neg hne]
        exact hold hc

/-! ## The scale factors (R298) -/

/-- The registers hold the allocation and the selection of the plan. -/
structure Regs2 (b : BodyPlan) (t : State) : Prop where
  alloc : ∀ sb < 32, ∀ ch < b.nch, (t.alloc2 ch sb).toNat = b.alloc ch sb
  select : ∀ sb < b.nbal.length, ∀ ch < b.nch, b.alloc ch sb ≠ 0 → (t.scfsi2 ch sb).toNat = b.select (b.nch * sb + ch)

theorem Select2Read.regs (hb : b.Of s) (h0 : Alloc2Read s b p (b.nch * 32) s0)
    (h : Select2Read s b s0 (b.nch * b.nbal.length) t) : Regs2 b t where
  alloc sb hsb ch hch := by rw [← h0.alloc.get le_rfl hsb hch, State.alloc2, State.alloc2, h.alloc]
  select _ hsb _ hch := h.select.get hb.limit hsb hch

/-- The allocation and the selection of s0 stand, and the scale-factor indexes of the first n pairs are stored. -/
structure Factor2Read (s : State) (b : BodyPlan) (s0 : State) (n : Nat) (t : State) : Prop where
  body : BodyRead own2 s (b.factorPos2 n) t
  alloc : t.tr.l2.alloc = s0.tr.l2.alloc
  select : t.tr.l2.scfsi = s0.tr.l2.scfsi
  factor : DoneUpTo b.nch n fun ch sb =>
    b.alloc ch sb ≠ 0 → ∀ p < 3, (t.scf2 ch sb p).toNat = b.factor2 (b.nch * sb + ch) p
  allowed : ∀ m < n, b.allocated m = true → ∀ i < b.sent m, b.index2 m i ≠ 63

theorem Factor2Read.regs2 (h : Factor2Read s b s0 n t) (hregs : Regs2 b s0) : Regs2 b t := by
  constructor
  · intro sb hsb ch hch
    rw [State.alloc2, h.alloc]
    exact hregs.alloc sb hsb ch hch
  · intro sb hsb ch hch
    rw [State.scfsi2, h.select]
    exact hregs.select sb hsb ch hch

/-- The next index of pair n, and what follows it. -/
theorem readIndex2_reads (hb : b.Of2 s table) (hn : n < b.nch * b.nbal.length) (halloc : b.allocated n = true) {i : Nat}
    (hi : i < b.sent n) {β : Type} {k : BitVec 6 → Act β} {Q : β → State → Prop}
    (h : BodyRead own2 s (b.factorPos2 n + 6 * i) t)
    (hallowed : ∀ m < n, b.allocated m = true → ∀ i < b.sent m, b.index2 m i ≠ 63)
    (hbefore : ∀ j < i, b.index2 n j ≠ 63)
    (hk : ∀ v : BitVec 6, v.toNat = b.index2 n i → b.factorPos2 n + 6 * (i + 1) ≤ s.fbSize →
      (∀ j < i + 1, b.index2 n j ≠ 63) →
      Ends (k v) Q (fun e _ => b.Fails2 s.cfg table e) (t.atBit (b.factorPos2 n + 6 * (i + 1)))) :
    Ends (readScfIndex >>= k) Q (fun e _ => b.Fails2 s.cfg table e) t := by
  have hsize := hb.fbSize
  have hindex : b.index2 n i = bitsAt s.fb.bytes (b.factorPos2 n + 6 * i) 6 := by rw [BodyPlan.index2, hb.bytes]
  have hnext : b.factorPos2 n + 6 * i + 6 = b.factorPos2 n + 6 * (i + 1) := by ring
  have hlast := b.factorPos2_succ n
  rw [if_pos halloc] at hlast
  rw [readScfIndex_eq]
  refine h.readAllowed (hb.fbSize ▸ hb.size) (fun hend _ => ?_)
    (fun hin hbad _ => .factor hn halloc hi (by omega) (hindex.trans hbad)) fun hin hgood => ?_
  · refine .short (fun m _ ha j hj hin => ?_) ?_
    · obtain hlt | rfl | hgt := Nat.lt_trichotomy m n
      · exact hallowed m hlt ha j hj
      · exact hbefore j (by omega)
      · have hmono := b.factorPos2_mono (show n + 1 ≤ m from hgt)
        omega
    · have hmono := b.factorPos2_le_setPos2 s.cfg table (show n + 1 ≤ b.nch * b.nbal.length from hn)
      omega
  · rw [hnext] at hin ⊢
    exact hk _ ((toNat_bitsAt ..).trans hindex.symm) hin (Nat.forall_lt_succ_right.mpr ⟨hbefore, hindex ▸ hgood⟩)

/-- The three indexes of a pair are stored. -/
theorem Factor2Read.store (hb : b.Of s) (h : Factor2Read s b s0 (b.nch * sb + ch) t) (hch : ch < b.nch) (hsb : sb < 32)
    (halloc : b.allocated (b.nch * sb + ch) = true) {q : Nat}
    (hq : q = b.factorPos2 (b.nch * sb + ch) + 6 * b.sent (b.nch * sb + ch)) (hfits : q ≤ s.fbSize)
    (hallowed : ∀ i < b.sent (b.nch * sb + ch), b.index2 (b.nch * sb + ch) i ≠ 63) {x y z : BitVec 6}
    (hx : x.toNat = b.factor2 (b.nch * sb + ch) 0) (hy : y.toNat = b.factor2 (b.nch * sb + ch) 1)
    (hz : z.toNat = b.factor2 (b.nch * sb + ch) 2) :
    Factor2Read s b s0 (b.nch * sb + ch + 1) (setScf2 ch sb x y z (t.atBit q)) := by
  have hset := scf2_setScf2 (hb.ch_lt hch) hsb x y z (t.atBit q)
  have hnext := b.factorPos2_succ (b.nch * sb + ch)
  rw [if_pos halloc, ← hq] at hnext
  refine ⟨by rw [hnext]; exact (h.body.atBit hfits).withL2 _, h.alloc, h.select,
    h.factor.succ hch (fun _ p hp => ?_) fun c sb' hne hold hc p hp => ?_,
    Nat.forall_lt_succ_right.mpr ⟨h.allowed, fun _ => hallowed⟩⟩
  · rw [hset, if_pos ⟨rfl, rfl⟩]
    obtain rfl | rfl | rfl : p = 0 ∨ p = 1 ∨ p = 2 := by omega
    · exact hx
    · exact hy
    · exact hz
  · rw [hset, if_neg hne]
    exact hold hc p hp

theorem BodyPlan.sent_of_select {m : Nat} (h : b.select n = m) : b.sent n = [3, 2, 1, 2].getD m 0 := by
  rw [BodyPlan.sent, h]

theorem BodyPlan.factor2_of_select {m : Nat} (h : b.select n = m) (p : Nat) :
    b.factor2 n p = b.index2 n (([[0, 1, 2], [0, 0, 1], [0, 0, 0], [0, 1, 1]].getD m []).getD p 0) := by
  rw [BodyPlan.factor2, h]

/-- `readScf2`: the indexes of a pair are what stands at its place, as many as its selection says. -/
theorem readScf2_reads (hb : b.Of2 s table) (hsb : sb < b.nbal.length) (hch : ch < b.nch)
    (h : Factor2Read s b s0 (b.nch * sb + ch) t) (halloc : b.allocated (b.nch * sb + ch) = true)
    (hselect : (t.scfsi2 ch sb).toNat = b.select (b.nch * sb + ch)) :
    Ends (readScf2 ch sb) (fun _ u => Factor2Read s b s0 (b.nch * sb + ch + 1) u)
      (fun e _ => b.Fails2 s.cfg table e) t := by
  have hn := pair_lt hch hsb
  have hsb' := hsb.trans_le hb.limit
  have hp : ∀ m, b.select (b.nch * sb + ch) = m → t.scfsi2 ch sb = BitVec.ofNat 2 m := fun m hm => by
    rw [← hm, ← hselect, BitVec.ofNat_toNat, BitVec.setWidth_eq]
  have hlt := (t.scfsi2 ch sb).isLt
  have hnone : ∀ j < 0, b.index2 (b.nch * sb + ch) j ≠ 63 := fun _ hj => absurd hj (Nat.not_lt_zero _)
  unfold readScf2
  rw [ends_bind, ends_get]
  dsimp only
  obtain hsel | hsel | hsel | hsel : b.select (b.nch * sb + ch) = 0 ∨ b.select (b.nch * sb + ch) = 1 ∨
      b.select (b.nch * sb + ch) = 2 ∨ b.select (b.nch * sb + ch) = 3 := by omega
  all_goals
    have hfactor := BodyPlan.factor2_of_select hsel
    have hsent := BodyPlan.sent_of_select hsel
    refine readIndex2_reads hb hn halloc (i := 0) (hsent ▸ by decide) h.body h.allowed hnone fun x hx hin hx' => ?_
    rw [hp _ hsel]
  · rw [if_pos (by decide)]
    refine readIndex2_reads hb hn halloc (i := 1) (hsent ▸ by decide) (h.body.atBit hin) h.allowed hx'
      fun y hy hin hy' => ?_
    refine readIndex2_reads hb hn halloc (i := 2) (hsent ▸ by decide) (h.body.atBit hin) h.allowed hy'
      fun z hz hin hz' => ?_
    rw [ends_modify, atBit_atBit, atBit_atBit]
    exact h.store hb.toOf hch hsb' halloc (by rw [hsent]; rfl) hin (hsent ▸ hz')
      (hx.trans (hfactor 0).symm) (hy.trans (hfactor 1).symm) (hz.trans (hfactor 2).symm)
  · rw [if_neg (by decide), if_pos (by decide)]
    refine readIndex2_reads hb hn halloc (i := 1) (hsent ▸ by decide) (h.body.atBit hin) h.allowed hx'
      fun y hy hin hy' => ?_
    rw [ends_modify, atBit_atBit]
    exact h.store hb.toOf hch hsb' halloc (by rw [hsent]; rfl) hin (hsent ▸ hy')
      (hx.trans (hfactor 0).symm) (hx.trans (hfactor 1).symm) (hy.trans (hfactor 2).symm)
  · rw [if_neg (by decide), if_neg (by decide), if_pos (by decide)]
    exact (ends_modify _).mpr (h.store hb.toOf hch hsb' halloc (by rw [hsent]; rfl) hin (hsent ▸ hx')
      (hx.trans (hfactor 0).symm) (hx.trans (hfactor 1).symm) (hx.trans (hfactor 2).symm))
  · rw [if_neg (by decide), if_neg (by decide), if_neg (by decide)]
    refine readIndex2_reads hb hn halloc (i := 1) (hsent ▸ by decide) (h.body.atBit hin) h.allowed hx'
      fun y hy hin hy' => ?_
    rw [ends_modify, atBit_atBit]
    exact h.store hb.toOf hch hsb' halloc (by rw [hsent]; rfl) hin (hsent ▸ hy')
      (hx.trans (hfactor 0).symm) (hy.trans (hfactor 1).symm) (hy.trans (hfactor 2).symm)

/-- `readScfs2`: every index is what stands at its place, and is allowed. -/
theorem readScfs2_reads (hb : b.Of2 s table) (h : BodyRead own2 s (b.factorPos2 0) s0) (hregs : Regs2 b s0) :
    Ends (readScfs2 b.nbal.length b.nch) (fun _ u => Factor2Read s b s0 (b.nch * b.nbal.length) u)
      (fun e _ => b.Fails2 s.cfg table e) s0 := by
  unfold readScfs2
  refine ends_pairs ⟨h, rfl, rfl, doneUpTo_zero, fun _ hm => absurd hm (Nat.not_lt_zero _)⟩ fun sb hsb ch hch t ht => ?_
  have hregs' := ht.regs2 hregs
  have halloc := hregs'.alloc sb (hsb.trans_le hb.limit) ch hch
  have hpair := BodyPlan.allocated_iff hch halloc
  rw [ends_bind, ends_get]
  by_cases hc : t.alloc2 ch sb = 0
  · have hnext := b.factorPos2_succ (b.nch * sb + ch)
    have hnot := mt hpair.mp (not_not.mpr hc)
    have hzero : b.alloc ch sb = 0 := by rw [← halloc, hc]; rfl
    rw [if_neg (not_not.mpr hc), ends_pure]
    rw [if_neg hnot, Nat.add_zero] at hnext
    exact ⟨by rw [hnext]; exact ht.body, ht.alloc, ht.select, ht.factor.succ hch (absurd hzero) fun _ _ _ => id,
      Nat.forall_lt_succ_right.mpr ⟨ht.allowed, fun ha => absurd ha hnot⟩⟩
  · rw [if_pos hc]
    have hne : b.alloc ch sb ≠ 0 := halloc ▸ fun h0 => hc (BitVec.eq_of_toNat_eq h0)
    exact readScf2_reads hb hsb hch ht (hpair.mpr hc) (hregs'.select sb hsb ch hch hne)

end

end Sys2Proof.Machine
end

section
/-! PROOFS. The body of a Layer II frame, second part: the budget, the triples, and the whole body (R291, R299 to
R305). -/

-- One theorem after another: threads that wait for each other exhaust the memory limit with their stacks.
set_option Elab.async false

namespace Sys2Proof.Machine

open Act

/-! ## The bit budget (R299) -/

/-- The registers hold the scale factors of the plan. -/
def Factors2 (b : BodyPlan) (t : State) : Prop :=
  ∀ sb < b.nbal.length, ∀ ch < b.nch, b.alloc ch sb ≠ 0 →
    ∀ p < 3, (t.scf2 ch sb p).toNat = b.factor2 (b.nch * sb + ch) p

section
variable {s s1 t : State} {b : BodyPlan} {p n k ch sb : Nat} {table : List AllocRow}

theorem Regs2.code (h : Regs2 b t) (hb : b.Of s) (hsb : sb < b.nbal.length) (hch : ch < b.nch) :
    (t.alloc2 ch sb).toNat = b.code (b.index ch sb) :=
  (h.alloc sb (hsb.trans_le hb.limit) ch hch).trans (BodyPlan.alloc_eq hsb)

/-- The class of a channel's code. -/
theorem Regs2.quantClass (h : Regs2 b t) (hb : b.Of s) (hsb : sb < b.nbal.length) (hch : ch < b.nch) (c : Config) :
    quantClass c table sb (t.alloc2 ch sb) = b.class2 c table (b.index ch sb) := by
  unfold Machine.quantClass BodyPlan.class2
  rw [hb.subband_index hch, h.code hb hsb hch]

theorem tripleBits_eq (q : QuantClass) : tripleBits q = q.group.getD (3 * q.bits) := by
  unfold tripleBits
  cases q.group <;> rfl

theorem Regs2.code_eq_zero (h : Regs2 b t) (hb : b.Of s) (hsb : sb < b.nbal.length) (hch : ch < b.nch) :
    t.alloc2 ch sb = 0 ↔ b.code (b.index ch sb) = 0 := by
  rw [← h.code hb hsb hch, ← BitVec.toNat_inj]
  rfl

theorem Regs2.allocBits (h : Regs2 b t) (hb : b.Of s) (hsb : sb < b.nbal.length) (hch : ch < b.nch) (c : Config) :
    allocBits2 c table sb (t.alloc2 ch sb) = b.tripleBits2 c table (b.index ch sb) := by
  unfold allocBits2 BodyPlan.tripleBits2
  rw [tripleBits_eq, h.quantClass hb hsb hch]
  exact if_congr (h.code_eq_zero hb hsb hch) rfl rfl

/-- The budget is twelve sets of triples. -/
theorem budget2_eq (hb : b.Of s) (h : Regs2 b t) :
    budget2 table b.nbal.length b.nch b.bound t = 12 * b.offset2 t.cfg table b.codes := by
  have hone := hb.nch_pos
  unfold budget2 BodyPlan.offset2
  rw [← hb.sum_codes]
  refine congrArg (fun l : List Nat => 12 * l.sum) (List.map_congr_left fun sb hsb => ?_)
  have hsb' : sb < b.nbal.length := List.mem_range.mp hsb
  split
  · exact congrArg List.sum (List.map_congr_left fun ch hch => h.allocBits hb hsb' (List.mem_range.mp hch) _)
  · exact h.allocBits hb hsb' hone _

/-- The triples fit the body, or it is too short. -/
theorem checkBudget2_ends (hb : b.Of s) (h : Regs2 b t) (hbody : BodyRead own2 s (b.setPos2 s.cfg table 0) t)
    {Q : Unit → State → Prop} (hfactors : b.FactorsAllowed2) (hQ : b.setPos2 s.cfg table 12 ≤ b.size → Q () t) :
    Ends (checkBudget2 table b.nbal.length b.nch b.bound) Q (fun e _ => b.Fails2 s.cfg table e) t := by
  have hpos : b.setPos2 s.cfg table 0 + 12 * b.offset2 s.cfg table b.codes = b.setPos2 s.cfg table 12 := by
    unfold BodyPlan.setPos2
    ring
  have hcheck : checkBudget2 table b.nbal.length b.nch b.bound t = fbBudget (12 * b.offset2 s.cfg table b.codes) t := by
    rw [← hbody.cfg]
    exact congrArg (fbBudget · t) (budget2_eq hb h)
  rw [ends_congr hcheck, hbody.budget (hb.fbSize ▸ hb.size), hpos, ← hb.fbSize]
  split
  · exact .short hfactors ‹_›
  · exact hQ (Nat.not_lt.mp ‹_›)

/-! ## One triple (R301 to R303) -/

/-- The three samples of a triple go to `GRID`. -/
def storeTriple (ch sb gr : Nat) (x : Nat → Sample) (s : State) : State :=
  setGrid ch sb (3 * gr + 2) (x 2) (setGrid ch sb (3 * gr + 1) (x 1) (setGrid ch sb (3 * gr) (x 0) s))

theorem zeroTriple_eq (ch sb gr : Nat) (s : State) :
    zeroTriple ch sb gr s = storeTriple ch sb gr (fun _ => Num.zero) s := rfl

/-- Value q of a triple. -/
def tripleValue (v : Nat × Nat × Nat) : Nat → Nat
  | 0 => v.1
  | 1 => v.2.1
  | _ => v.2.2

theorem setTriple_eq (ch sb gr : Nat) (k : QuantClass) (v : Nat × Nat × Nat) (s : State) :
    setTriple ch sb gr k v s =
      storeTriple ch sb gr (fun q => dequantised2 s.cfg.num k (tripleValue v q) (s.scf2 ch sb (gr / 4)).toNat) s := by
  have hx : ∀ r, Num.mul s.cfg.num (dequant s.cfg.num r k.bits k.steps k.dExp)
      (scale s.cfg.num (s.scf2 ch sb (gr / 4)).toNat) =
      dequantised2 s.cfg.num k r (s.scf2 ch sb (gr / 4)).toNat := fun r => by
    unfold dequant dequantised2
    push_cast
    rfl
  unfold setTriple
  simp only [hx]
  rfl

/-- The samples of a channel and a subband after a triple was stored. -/
theorem grid_storeTriple {gr : Nat} (hch : ch < 2) (hsb : sb < 32) (hgr : gr < 12) (x : Nat → Sample) (t : State)
    (c b' i : Nat) {q : Nat} (hq : q < 3) :
    rd (rd (rd (storeTriple ch sb gr x t).tr.grid c) b') (3 * i + q) =
      if i = gr ∧ ch = c ∧ sb = b' then x q else rd (rd (rd t.tr.grid c) b') (3 * i + q) := by
  unfold storeTriple
  rw [grid_setGrid hch hsb (by omega), grid_setGrid hch hsb (by omega), grid_setGrid hch hsb (by omega)]
  by_cases hcb : ch = c ∧ sb = b'
  · by_cases hi : i = gr
    · subst hi
      obtain rfl | rfl | rfl : q = 0 ∨ q = 1 ∨ q = 2 := by omega
      all_goals simp [hcb]
    · rw [if_neg (by omega), if_neg (by omega), if_neg (by omega), if_neg (by omega)]
  · rw [if_neg fun h => hcb ⟨h.1, h.2.1⟩, if_neg fun h => hcb ⟨h.1, h.2.1⟩, if_neg fun h => hcb ⟨h.1, h.2.1⟩,
      if_neg fun h => hcb h.2]

/-- `readTriple`: the values are what stands at the place of the triple. -/
theorem readTriple_reads (hb : b.Of2 s table) (hroom : b.setPos2 s.cfg table 12 ≤ b.size) {j : Nat} (hk : k < 12)
    (hj : j < b.codes) (hcode : b.code j ≠ 0)
    (h : BodyRead own2 s (b.setPos2 s.cfg table k + b.offset2 s.cfg table j) t)
    {β : Type} {kont : Nat × Nat × Nat → Act β} {Q : β → State → Prop} {E : Code → State → Prop}
    (hkont : ∀ v : Nat × Nat × Nat, (∀ q < 3, tripleValue v q = b.value2 s.cfg table k j q) →
      b.setPos2 s.cfg table k + b.offset2 s.cfg table (j + 1) ≤ s.fbSize →
      Ends (kont v) Q E (t.atBit (b.setPos2 s.cfg table k + b.offset2 s.cfg table (j + 1)))) :
    Ends (readTriple (b.class2 s.cfg table j) >>= kont) Q E t := by
  have hlast := b.triple_le_setPos2 s.cfg table hk hj
  have hsize := hb.fbSize
  have hbig := hb.fbSize ▸ hb.size
  rw [b.offset2_succ, ← Nat.add_assoc] at hlast hkont
  unfold BodyPlan.tripleBits2 at hlast hkont
  unfold BodyPlan.value2 at hkont
  rw [if_neg hcode] at hlast hkont
  rw [hb.bytes] at hkont
  generalize b.setPos2 s.cfg table k + b.offset2 s.cfg table j = place at h hlast hkont
  generalize b.class2 s.cfg table j = q at hlast hkont
  rw [ends_bind]
  unfold readTriple
  cases hgroup : q.group with
  | some cw =>
    rw [hgroup] at hlast hkont
    dsimp only [Option.getD_some] at hlast hkont ⊢
    refine h.read hbig (fun hn => absurd hn (by omega)) fun hn => ?_
    refine (ends_pure _).mpr (hkont _ (fun i hi => ?_) hn)
    rw [hgroup]
    obtain rfl | rfl | rfl : i = 0 ∨ i = 1 ∨ i = 2 := by omega
    · dsimp only
      rw [pow_zero, Nat.div_one]
      rfl
    · dsimp only
      rw [pow_one]
      rfl
    · dsimp only
      rw [pow_two]
      rfl
  | none =>
    rw [hgroup] at hlast hkont
    dsimp only [Option.getD_none] at hlast hkont ⊢
    refine h.read hbig (fun hn => absurd hn (by omega)) fun hn => ?_
    refine (h.atBit hn).read hbig (fun hn => absurd hn (by omega)) fun hn' => ?_
    refine ((h.atBit hn).atBit hn').read hbig (fun hn => absurd hn (by omega)) fun hn'' => ?_
    have hend : place + q.bits + q.bits + q.bits = place + 3 * q.bits := by ring
    rw [ends_pure, atBit_atBit, atBit_atBit, hend]
    rw [hend] at hn''
    refine hkont _ (fun i hi => ?_) hn''
    rw [hgroup]
    obtain rfl | rfl | rfl : i = 0 ∨ i = 1 ∨ i = 2 := by omega
    · dsimp only
      rw [Nat.zero_mul]
      rfl
    · dsimp only
      rw [Nat.one_mul]
      rfl
    · dsimp only
      rw [Nat.two_mul, ← Nat.add_assoc]
      rfl

/-! ## All triples (R303, R304) -/

/-- Sample q of the triple of a channel and a subband in set gr. -/
def BodyPlan.sample2 (b : BodyPlan) (c : Config) (t : List AllocRow) (gr ch sb q : Nat) : Sample :=
  if b.alloc ch sb = 0 then Num.zero
  else dequantised2 c.num (b.class2 c t (b.index ch sb)) (b.value2 c t gr (b.index ch sb) q)
    (b.factor2 (b.nch * sb + ch) (gr / 4))

/-- The body is read up to bit p, and the triples of the first k sets and of the first n pairs of set k are stored; the
registers of the layer are those of s1. -/
structure Triples2Read (s : State) (b : BodyPlan) (table : List AllocRow) (s1 : State) (p k n : Nat) (t : State) :
    Prop where
  body : BodyRead own2 s p t
  regs : t.tr.l2 = s1.tr.l2
  grid : SetsDone b.nch k n fun i ch sb =>
    ∀ q < 3, rd (rd (rd t.tr.grid ch) sb) (3 * i + q) = b.sample2 s.cfg table i ch sb q

theorem Triples2Read.regs2 (h : Triples2Read s b table s1 p k n t) (hregs : Regs2 b s1) : Regs2 b t := by
  constructor
  · intro sb hsb ch hch
    rw [State.alloc2, h.regs]
    exact hregs.alloc sb hsb ch hch
  · intro sb hsb ch hch
    rw [State.scfsi2, h.regs]
    exact hregs.select sb hsb ch hch

theorem Triples2Read.factors (h : Triples2Read s b table s1 p k n t) (hfactors : Factors2 b s1) : Factors2 b t := by
  intro sb hsb ch hch ha p hp
  rw [State.scf2, h.regs]
  exact hfactors sb hsb ch hch ha p hp

theorem Triples2Read.store (hb : b.Of s) (h : Triples2Read s b table s1 p k (b.nch * sb + ch) t) (hk : k < 12)
    (hsb : sb < 32) (hch : ch < b.nch) {x : Nat → Sample} (hx : ∀ q < 3, x q = b.sample2 s.cfg table k ch sb q) :
    Triples2Read s b table s1 p k (b.nch * sb + ch + 1) (storeTriple ch sb k x t) := by
  have hset := grid_storeTriple (hb.ch_lt hch) hsb hk x t
  refine ⟨((h.body.withGrid2 _).withGrid2 _).withGrid2 _, h.regs,
    h.grid.succ hch (fun q hq => ?_) fun i c sb' hne hold q hq => ?_⟩
  · rw [hset _ _ _ hq, if_pos ⟨rfl, rfl, rfl⟩, hx q hq]
  · rw [hset _ _ _ hq, if_neg hne]
    exact hold q hq

/-- The triple is stored for every channel. -/
theorem Triples2Read.storeAll (hb : b.Of s) (h : Triples2Read s b table s1 p k (b.nch * sb) t) (hk : k < 12)
    (hsb : sb < 32) {f : Nat → State → State} {x : Nat → State → Nat → Sample}
    (hf : ∀ ch u, f ch u = storeTriple ch sb k (x ch u) u)
    (hx : ∀ ch < b.nch, ∀ n u, Triples2Read s b table s1 p k n u →
      ∀ q < 3, x ch u q = b.sample2 s.cfg table k ch sb q) :
    Triples2Read s b table s1 p k (b.nch * (sb + 1)) (loop b.nch f t) :=
  loop_induct (P := fun ch u => Triples2Read s b table s1 p k (b.nch * sb + ch) u) h fun ch u hch hu => by
    rw [hf]
    exact hu.store hb hk hsb hch (hx ch hch _ u hu)

/-- The samples of a channel whose code is that of channel c. -/
theorem Triples2Read.value (h : Triples2Read s b table s1 p k n t) (hfactors : Factors2 b s1) (hk : k < 12)
    (hsb : sb < b.nbal.length) {c : Nat} (hch : ch < b.nch) (hindex : b.index ch sb = b.index c sb)
    (hcode : b.code (b.index c sb) ≠ 0) {v : Nat × Nat × Nat}
    (hv : ∀ q < 3, tripleValue v q = b.value2 s.cfg table k (b.index c sb) q) {q : Nat} (hq : q < 3) :
    dequantised2 t.cfg.num (b.class2 s.cfg table (b.index c sb)) (tripleValue v q) (t.scf2 ch sb (k / 4)).toNat =
      b.sample2 s.cfg table k ch sb q := by
  have halloc : b.alloc ch sb ≠ 0 := by rwa [BodyPlan.alloc_eq hsb, hindex]
  rw [hv q hq, h.body.cfg, h.factors hfactors sb hsb ch hch halloc (k / 4) (by omega), BodyPlan.sample2, if_neg halloc,
    hindex]

/-- A code of 0 takes no bits. -/
theorem BodyPlan.offset2_of_code_eq_zero {c : Config} {j : Nat} (h : b.code j = 0) :
    b.offset2 c table (j + 1) = b.offset2 c table j := by
  rw [b.offset2_succ, BodyPlan.tripleBits2, if_pos h]
  rfl

/-- `readTriple2` over the subbands of set k. -/
theorem readSet2_reads (hb : b.Of2 s table) (hroom : b.setPos2 s.cfg table 12 ≤ b.size) (hregs : Regs2 b s1)
    (hfactors : Factors2 b s1) (hk : k < 12) (h : Triples2Read s b table s1 (b.setPos2 s.cfg table k) k 0 t) :
    Ends (forEach 32 fun sb => readTriple2 table b.nbal.length b.nch b.bound k sb)
      (fun _ u => Triples2Read s b table s1 (b.setPos2 s.cfg table (k + 1)) (k + 1) 0 u)
      (fun e _ => b.Fails2 s.cfg table e) t := by
  have hlimit := hb.limit
  have hone := hb.nch_pos
  refine (ends_codes hb.toOf
    (P := fun j n t => Triples2Read s b table s1 (b.setPos2 s.cfg table k + b.offset2 s.cfg table j) k n t)
    h (fun sb hsb => if_pos hsb) (fun sb hsb ch hch t ht => ?_) (fun sb hge hsb t ht => ?_)
    fun sb hge hsb t ht => ?_).mono (fun _ u hu => ?_) fun _ _ he => he
  · have hsb' : sb < b.nbal.length := hsb.trans_le hb.bound
    have hregs' := ht.regs2 hregs
    have hzero := hregs'.code_eq_zero hb.toOf hsb' hch
    rw [ends_bind, ends_get]
    dsimp only
    by_cases hc : t.alloc2 ch sb = 0
    · rw [if_pos hc, ends_modify, zeroTriple_eq, BodyPlan.offset2_of_code_eq_zero (hzero.mp hc)]
      refine ht.store hb.toOf hk (by omega) hch fun q _ => (if_pos ?_).symm
      rw [BodyPlan.alloc_eq hsb', hzero.mp hc]
    · have hcode := mt hzero.mpr hc
      rw [if_neg hc, ht.body.cfg, hregs'.quantClass hb.toOf hsb' hch]
      refine readTriple_reads hb hroom hk (hb.index_lt hch hsb') hcode ht.body fun v hv hin => ?_
      rw [ends_modify, setTriple_eq]
      have hu : Triples2Read s b table s1 _ k _ (t.atBit _) := ⟨ht.body.atBit hin, ht.regs, ht.grid⟩
      exact hu.store hb.toOf hk (by omega) hch fun q hq => hu.value hfactors hk hsb' hch rfl hcode hv hq
  · have hregs' := ht.regs2 hregs
    have hzero := hregs'.code_eq_zero hb.toOf hsb hone
    have hindex : ∀ ch, b.index ch sb = b.index 0 sb := fun ch => by
      rw [BodyPlan.index_shared hge, BodyPlan.index_shared hge]
    rw [if_neg (Nat.not_lt.mpr hge), ends_bind, ends_get]
    dsimp only
    by_cases hc : t.alloc2 0 sb = 0
    · rw [if_neg fun h => h.2 hc, ends_modify, BodyPlan.offset2_of_code_eq_zero (hzero.mp hc)]
      refine ht.storeAll hb.toOf hk (by omega) (fun ch u => zeroTriple_eq ch sb k u)
        fun ch _ _ _ _ q _ => (if_pos ?_).symm
      rw [BodyPlan.alloc_eq hsb, hindex, hzero.mp hc]
    · have hcode := mt hzero.mpr hc
      rw [if_pos ⟨hsb, hc⟩, ht.body.cfg, hregs'.quantClass hb.toOf hsb hone]
      refine readTriple_reads hb hroom hk (hb.index_lt hone hsb) hcode ht.body fun v hv hin => ?_
      have hu : Triples2Read s b table s1 _ k _ (t.atBit _) := ⟨ht.body.atBit hin, ht.regs, ht.grid⟩
      rw [ends_modify]
      exact hu.storeAll hb.toOf hk (by omega) (fun ch u => setTriple_eq ch sb k _ v u) fun ch hch _ w hw q hq =>
        hw.value hfactors hk hsb hch (hindex ch) hcode hv hq
  · have hbound := hb.bound
    rw [if_neg (by omega), ends_bind, ends_get]
    dsimp only
    rw [if_neg fun h => by omega, ends_modify]
    exact ht.storeAll hb.toOf hk hsb (fun ch u => zeroTriple_eq ch sb k u) fun ch _ _ _ _ q _ =>
      (if_pos (if_neg (Nat.not_lt.mpr hge))).symm
  · rw [b.setPos2_succ]
    exact ⟨hu.body, hu.regs, hu.grid.nextSet⟩

theorem readTriples2_reads (hb : b.Of2 s table) (hroom : b.setPos2 s.cfg table 12 ≤ b.size) (hregs : Regs2 b s1)
    (hfactors : Factors2 b s1) (h : BodyRead own2 s (b.setPos2 s.cfg table 0) s1) :
    Ends (readTriples2 table b.nbal.length b.nch b.bound)
      (fun _ u => Triples2Read s b table s1 (b.setPos2 s.cfg table 12) 12 0 u)
      (fun e _ => b.Fails2 s.cfg table e) s1 := by
  unfold readTriples2
  exact ends_forEach (P := fun k t => Triples2Read s b table s1 (b.setPos2 s.cfg table k) k 0 t) ⟨h, rfl, setsDone_zero⟩
    fun k hk t ht => readSet2_reads hb hroom hregs hfactors hk ht

/-! ## The body (R291) -/

theorem allocTable2_limit_le (s : State) : s.allocTable2.2 ≤ 30 := by
  unfold State.allocTable2 allocTable
  repeat' split
  all_goals norm_num

theorem layer2Plan_length (s : State) : (layer2Plan s).nbal.length = s.allocTable2.2 := by
  unfold layer2Plan
  rw [List.length_map, List.length_range]

theorem layer2Plan_width (s : State) {sb : Nat} (h : sb < s.allocTable2.2) :
    (layer2Plan s).nbal.getD sb 0 = (allocRow s.allocTable2.1 sb).nbal := by
  unfold layer2Plan
  rw [List.getD_eq_getElem _ _ (by simpa using h)]
  simp

theorem layer2Plan_of2 (hnch : s.nch = 1 ∨ s.nch = 2) (hsize : s.fbSize < 2 ^ 32) :
    (layer2Plan s).Of2 s s.allocTable2.1 where
  bytes := rfl
  nch := hnch
  bound := (min_le_right ..).trans (layer2Plan_length s).ge
  limit := (layer2Plan_length s).le.trans ((allocTable2_limit_le s).trans (by decide))
  size := hsize
  widths _ hsb := layer2Plan_width s (layer2Plan_length s ▸ hsb)

theorem Factor2Read.factors {s0 : State} (hb : b.Of s) (h : Factor2Read s b s0 (b.nch * b.nbal.length) t) :
    Factors2 b t :=
  fun _ hsb _ hch => h.factor.get hb.limit hsb hch

/-- What `L2Decode` reads, or how it fails (R291 to R304). -/
theorem parse2_reads (hb : b.Of2 s table) (hplan : b = layer2Plan s) :
    Ends (parse2 table b.nbal.length b.nch b.bound)
      (fun _ t => b.Fits2 s.cfg table ∧ ∃ s1, Regs2 b s1 ∧ Factors2 b s1 ∧
        Triples2Read s b table s1 (b.setPos2 s.cfg table 12) 12 0 t)
      (fun e _ => b.Fails2 s.cfg table e) s := by
  have hpos : b.pos = s.fb.pos.toNat + if s.hdr.fields.protection = 0 then 16 else 0 := by rw [hplan]; rfl
  have hsize := hb.fbSize
  unfold parse2
  rw [ends_bind]
  refine (skipCheckWord_reads (own := own2) rfl (hb.fbSize ▸ hb.size) fun hshort _ => b.fails2_early ?_).mono
    (fun _ t0 h0 => ?_) fun _ _ he => he
  · have hmono := b.codePos_le_factorPos2 (Nat.zero_le _) 0
    rw [b.codePos_zero, hpos] at hmono
    omega
  rw [← hpos] at h0
  rw [ends_bind]
  refine (readAllocs2_reads hb ⟨h0, doneUpTo_zero⟩).mono (fun _ s0 hs0 => ?_) fun _ _ he => he
  rw [ends_bind]
  refine (readScfsi2_reads hb hs0).mono (fun _ s1 hs1 => ?_) fun _ _ he => he
  have hregs1 := hs1.regs hb.toOf hs0
  rw [ends_bind]
  refine (readScfs2_reads hb hs1.body hregs1).mono (fun _ s2 hs2 => ?_) fun _ _ he => he
  have hregs2 := hs2.regs2 hregs1
  have hbody := hs2.body
  rw [← b.setPos2_zero s.cfg table] at hbody
  rw [ends_bind]
  refine checkBudget2_ends hb.toOf hregs2 hbody (fun n hn ha i hi _ => hs2.allowed n hn ha i hi) fun hroom => ?_
  have hfactors := hs2.factors hb.toOf
  exact (readTriples2_reads hb hroom hregs2 hfactors hbody).mono
    (fun _ t ht => ⟨⟨hs2.allowed, hroom⟩, s2, hregs2, hfactors, ht⟩) fun _ _ he => he

theorem decodeLayer2_eq (s : State) :
    decodeLayer 2 s = match parse2 s.allocTable2.1 s.allocTable2.2 s.nch (min s.jointBound s.allocTable2.2) s with
      | .ok _ t => .ok () (feedGrid 36 s.nch t)
      | .error e t => .error e t := by
  show EStateM.bind (parse2 s.allocTable2.1 s.allocTable2.2 s.nch (min s.jointBound s.allocTable2.2))
    (fun _ => modify (feedGrid 36 s.nch)) s = _
  unfold EStateM.bind
  cases parse2 s.allocTable2.1 s.allocTable2.2 s.nch (min s.jointBound s.allocTable2.2) s <;> rfl

/-- The registers of a body that was read hold what the plan says. -/
theorem Triples2Read.spec (h : Triples2Read s b table s1 (b.setPos2 s.cfg table 12) 12 0 t) (hregs : Regs2 b s1)
    (hfactors : Factors2 b s1) :
    t = { s with fb := t.fb, tr := { s.tr with l2 := t.tr.l2, grid := t.tr.grid } } ∧
    t.fb = { s.fb with pos := BitVec.ofNat 32 (b.setPos2 s.cfg table 12) } ∧
    ∀ ch < b.nch, ∀ sb < 32,
      (t.alloc2 ch sb).toNat = b.alloc ch sb ∧
      (b.alloc ch sb ≠ 0 →
        (t.scfsi2 ch sb).toNat = b.select (b.nch * sb + ch) ∧
        ∀ p < 3, (t.scf2 ch sb p).toNat = b.factor2 (b.nch * sb + ch) p) ∧
      ∀ gr < 12, ∀ q < 3, rd (rd (rd t.tr.grid ch) sb) (3 * gr + q) = b.sample2 s.cfg table gr ch sb q := by
  refine ⟨h.body.frame, h.body.fb, fun ch hch sb hsb =>
    ⟨(h.regs2 hregs).alloc sb hsb ch hch, fun ha => ?_, fun i hi => (h.grid.sets i hi).get le_rfl hsb hch⟩⟩
  have hlt : sb < b.nbal.length := by
    by_contra hge
    exact ha (if_neg hge)
  exact ⟨(h.regs2 hregs).select sb hlt ch hch ha, h.factors hfactors sb hlt ch hch ha⟩

theorem allocTable2_spec (s : State) {bpc : Nat} (hbpc : bpc = s.frm.bitrate.toNat / 1000 / s.nch) :
    s.allocTable2 =
      (if s.frm.version ≠ 1 then (s.cfg.l2Alloc.lsf, 30)
       else if (56 ≤ bpc ∧ bpc ≤ 80) ∨ (s.frm.rate = 48000 ∧ 56 ≤ bpc) then (s.cfg.l2Alloc.a, 27)
       else if s.frm.rate ≠ 48000 ∧ 96 ≤ bpc then (s.cfg.l2Alloc.b, 30)
       else if s.frm.rate ≠ 32000 ∧ bpc ≤ 48 then (s.cfg.l2Alloc.c, 8)
       else (s.cfg.l2Alloc.d, 12)) := by
  have hversion : s.frm.version.toNat = 1 ↔ s.frm.version = 1 := by rw [← BitVec.toNat_inj]; rfl
  have hrate48 : s.frm.rate.toNat = 48000 ↔ s.frm.rate = 48000 := by rw [← BitVec.toNat_inj]; rfl
  have hrate32 : s.frm.rate.toNat = 32000 ↔ s.frm.rate = 32000 := by rw [← BitVec.toNat_inj]; rfl
  rw [hbpc, State.allocTable2, allocTable]
  simp only [ne_eq, hversion, hrate48, hrate32]

end

/-- Settles O27, like O26, from the one statement about how reading ends; the printed tables are checked row by row. -/
theorem layerTwoBodyIsRead : Obligations.LayerTwoBodyIsRead := by
  unfold Obligations.LayerTwoBodyIsRead
  refine ⟨holds_of_bounded (by decide +kernel), by decide +kernel,
    fun s b t limit bpc hplan htable hbpc hnch hsize => ?_⟩
  obtain ⟨rfl, rfl⟩ : t = s.allocTable2.1 ∧ limit = s.allocTable2.2 :=
    ⟨congrArg Prod.fst htable, congrArg Prod.snd htable⟩
  have hb : b.Of2 s s.allocTable2.1 := by
    rw [hplan] at hsize ⊢
    exact layer2Plan_of2 hnch hsize
  have hreads := parse2_reads hb hplan
  have hbn : b.nch = s.nch := by rw [hplan]; rfl
  have hbb : b.bound = min s.jointBound s.allocTable2.2 := by rw [hplan]; rfl
  have hlen : b.nbal.length = s.allocTable2.2 := by rw [hplan]; exact layer2Plan_length s
  rw [hlen, hbn, hbb] at hreads
  refine ⟨allocTable2_spec s hbpc, hbb, hlen, fun sb hsb => hb.widths sb (hlen.symm ▸ hsb), jointBound_spec s,
    decodeLayer2_eq s, feedGrid_fedGrid 36 (by omega), fun hbad => ?_, fun hfactors hshort => ?_, fun hfits => ?_⟩
  · obtain ⟨n, hn, halloc, i, hi, hin, hbad⟩ := hbad
    rw [← hlen] at hn
    obtain ⟨e, t, hend, hfail⟩ := hreads.exists_error fun _ t ht => ht.1.factors n hn halloc i hi hbad
    cases hfail with
    | factor => exact ⟨t, hend⟩
    | short hfactors => exact absurd hbad (hfactors n hn halloc i hi hin)
  · obtain ⟨e, t, hend, hfail⟩ := hreads.exists_error fun _ t ht => absurd ht.1.room hshort.not_ge
    cases hfail with
    | factor hn halloc hi hin hbad => exact absurd hbad (hfactors _ (hlen ▸ hn) halloc _ hi hin)
    | short => exact ⟨t, hend⟩
  · obtain ⟨_, t, hend, -, s1, hregs, hfactors, ht⟩ := hreads.exists_ok fun e t hfail => by
      cases hfail with
      | factor hn halloc hi hin hbad => exact hfits.factors _ hn halloc _ hi hbad
      | short _ hshort => exact absurd hfits.room hshort.not_ge
    exact ⟨t, hend, hbn ▸ ht.spec hregs hfactors⟩

end Sys2Proof.Machine
end

section
/-! PROOFS. `READBIT` is `READBITS 1`, and no command word stands for it (R182). -/

-- One theorem after another: threads that wait for each other exhaust the memory limit with their stacks.
set_option Elab.async false

namespace Sys2Proof.Machine

open Act

/-! ## The width of a value that was read (R181) -/

/-- n bits make a number below 2^n. -/
theorem readBits_value_lt (n : Nat) (s : State) : Ends (readBits n) (fun v _ => v < 2 ^ n) (fun _ _ => True) s := by
  unfold Ends
  rw [readBits_eq]
  by_cases h : (pullTo (bytesFor (s.br.pos.toNat + n)) s).br.pulled.toNat < bytesFor (s.br.pos.toNat + n)
  · rw [if_pos h]
    trivial
  · rw [if_neg h]
    exact bitsAt_lt ..

theorem readbitsBody_value_lt (n : Nat) (s : State) :
    Ends (readbitsBody n) (fun v _ => v.toNat < 2 ^ n) (fun _ _ => True) s := by
  unfold readbitsBody
  rw [ends_ite]
  split_ifs
  · simp only [ends_bind, ends_get, cursorCheck_ends, ends_pure]
    split_ifs
    exact (readBits_value_lt n s).mono (fun _ _ hv => (Nat.mod_le ..).trans_lt hv) fun _ _ h => h
  · exact (ends_throw _).mpr trivial

/-- However `READBITS n` ends, its value has at most n bits: the bits that were read, or 0 after a failure (R124). -/
theorem readbits_value_lt (n : Nat) (s : State) : (runCommand (readbitsBody n) s).st.value.toNat < 2 ^ n := by
  obtain ⟨v, t, hv, hrun⟩ | ⟨e, t, -, hrun⟩ := runCommand_of_ends (readbitsBody_value_lt n (startCommand s))
  · exact hrun ▸ hv
  · exact hrun ▸ Nat.two_pow_pos n

/-! ## READBIT (R182) -/

theorem exec_readbit (s : State) : exec .readbit s = .next (runCommand (readbitsBody 1) s) := rfl

/-- What a command word decodes to is encoded as a command word. -/
theorem decodeCommand_ne_of_encode {i : Instr} {p : Pseudo} (h : encode i = .pseudo p) (w : CmdWord) :
    decodeCommand w ≠ i := by
  rintro rfl
  exact Fetched.noConfusion ((encode_decodeCommand w).symm.trans h)

/-- Settles O10: both run one body, one bit is a number below 2, and `READBIT` is encoded as a pseudo-instruction. -/
theorem readbitIsReadbitsOne : Obligations.ReadbitIsReadbitsOne := by
  unfold Obligations.ReadbitIsReadbitsOne
  refine ⟨fun s => ⟨_, exec_readbit s, exec_readbits 1 s, ?_⟩, decodeCommand_ne_of_encode (i := .readbit) rfl⟩
  have hbit := readbits_value_lt 1 s
  bv_omega

end Sys2Proof.Machine
end

section
/-! PROOFS. `PARSE_HEADER`: what it makes of an accepted header, how it refuses one, and the range of the frame length
(R201 to R215). -/

-- One theorem after another: threads that wait for each other exhaust the memory limit with their stacks.
set_option Elab.async false

namespace Sys2Proof.Machine

open Act

/-! ## The registers of `FRM` (R204 to R214) -/

section
variable (halve vbr : Bool) (h : HeaderFields)

theorem headerFrm_version_eq (v : BitVec 2) : (headerFrm halve h vbr).version = v ↔ headerVersion h = v.toNat := by
  have hlt : headerVersion h < 4 := by unfold headerVersion; split_ifs <;> decide
  rw [← BitVec.toNat_inj, show (headerFrm halve h vbr).version.toNat = headerVersion h from Nat.mod_eq_of_lt hlt]

theorem headerFrm_layer_eq (l : BitVec 2) : (headerFrm halve h vbr).layer = l ↔ headerLayer h = l.toNat := by
  have hlt : headerLayer h < 4 := by unfold headerLayer; split_ifs <;> decide
  rw [← BitVec.toNat_inj, show (headerFrm halve h vbr).layer.toNat = headerLayer h from Nat.mod_eq_of_lt hlt]

theorem headerFrm_channels_eq (c : BitVec 2) : (headerFrm halve h vbr).channels = c ↔ headerChannels h = c.toNat := by
  rw [← BitVec.toNat_inj, headerFrm_channels]

theorem headerFrm_spf_toNat : (headerFrm halve h vbr).spf.toNat = headerSpf h := by
  simp only [headerFrm, headerSpf]
  split_ifs <;> rfl

theorem headerFrm_durUs_toNat : (headerFrm halve h vbr).durUs.toNat = headerDurUs h := by
  have hspf : headerSpf h ≤ 1152 := by unfold headerSpf; split_ifs <;> decide
  have hle : headerDurUs h ≤ headerSpf h * 1000000 := by
    unfold headerDurUs
    exact Nat.div_le_self ..
  have hlt : headerDurUs h < 2 ^ 32 := by omega
  rw [headerFrm, BitVec.toNat_ofNat, Nat.mod_eq_of_lt hlt]

end

/-- `FRM.version` by the code in the header word (R204). -/
theorem headerVersion_of_legal {h : HeaderFields} (hv : h.versionId ≠ 1) :
    headerVersion h = if h.versionId = 3 then 1 else if h.versionId = 2 then 2 else 3 := by
  have hcodes (c : BitVec 2) (h3 : c ≠ 3) (h2 : c ≠ 2) (h1 : c ≠ 1) : c = 0 := by decide +revert
  unfold headerVersion
  split_ifs with h3 h2 h0
  · rfl
  · rfl
  · rfl
  · exact absurd (hcodes _ h3 h2 hv) h0

/-- `FRM.layer` by the code in the header word (R205). -/
theorem headerLayer_of_legal {h : HeaderFields} (hl : h.layerCode ≠ 0) :
    headerLayer h = if h.layerCode = 3 then 1 else if h.layerCode = 2 then 2 else 3 := by
  have hcodes (c : BitVec 2) (h3 : c ≠ 3) (h2 : c ≠ 2) (h0 : c ≠ 0) : c = 1 := by decide +revert
  unfold headerLayer
  split_ifs with h3 h2 h1
  · rfl
  · rfl
  · rfl
  · exact absurd (hcodes _ h3 h2 hl) h1

theorem headerFrm_version_of_legal {h : HeaderFields} (halve vbr : Bool) (hv : h.versionId ≠ 1) :
    (headerFrm halve h vbr).version = if h.versionId = 3 then 1 else if h.versionId = 2 then 2 else 3 := by
  rw [headerFrm, headerVersion_of_legal hv]
  split_ifs <;> rfl

theorem headerFrm_layer_of_legal {h : HeaderFields} (halve vbr : Bool) (hl : h.layerCode ≠ 0) :
    (headerFrm halve h vbr).layer = if h.layerCode = 3 then 1 else if h.layerCode = 2 then 2 else 3 := by
  rw [headerFrm, headerLayer_of_legal hl]
  split_ifs <;> rfl

/-- The model's tables hold a 0 for the refused index, which the printed ones leave out: both read 0 there. -/
theorem getD_of_eq_append {l m : List Nat} (h : l = m ++ [0]) (n : Nat) : l.getD n 0 = m.getD n 0 := by
  rw [h]
  obtain hn | hn := Nat.lt_or_ge n m.length
  · exact List.getD_append _ _ _ _ hn
  · rw [List.getD_append_right _ _ _ _ hn, List.getD_eq_default _ _ hn]
    cases n - m.length <;> rfl

section
variable {sb : SyncBits} {h : HeaderFields} (hc : headerClass sb h ∈ [.layer1, .layer2, .layer3])
include hc

theorem headerRate_bounds : 8000 ≤ headerRate h ∧ headerRate h ≤ 48000 := by
  obtain ⟨-, -, h3, -⟩ := headerClass_accepted hc
  obtain ⟨hlo, hhi⟩ := rate_bounds h3 (headerVersion h)
  exact ⟨hlo, hhi.trans (by split <;> decide)⟩

theorem headerFrm_bitrate_toNat (halve vbr : Bool) : (headerFrm halve h vbr).bitrate.toNat = headerBitrate h := by
  obtain ⟨-, h15, -, h0, -⟩ := headerClass_accepted hc
  obtain ⟨-, hle⟩ := kbps_bounds h0 h15 (headerVersion h) (headerLayer h)
  refine Nat.mod_eq_of_lt ?_
  unfold headerBitrate
  omega

theorem headerFrm_rate_toNat (halve vbr : Bool) : (headerFrm halve h vbr).rate.toNat = headerRate h := by
  obtain ⟨-, hle⟩ := headerRate_bounds hc
  exact Nat.mod_eq_of_lt (by omega)

theorem headerFrm_len_toNat (halve vbr : Bool) : (headerFrm halve h vbr).len.toNat = headerLen halve h :=
  Nat.mod_eq_of_lt (headerLen_bounds halve hc).2

end

/-! ## How `PARSE_HEADER` ends (R201, R202) -/

/-- `ReadBits` changes the bit reader and the count of free values, and raises `StreamExhausted` only. -/
theorem readBits_frame (n : Nat) (s : State) :
    Ends (readBits n) (fun _ t => t = { s with br := t.br, freeCtr := t.freeCtr })
      (fun e t => e = .streamExhausted ∧ t = { s with br := t.br, freeCtr := t.freeCtr }) s := by
  unfold Ends
  rw [readBits_eq]
  split_ifs
  · exact ⟨rfl, pullTo_eq _ s⟩
  · dsimp only
    rw [pullTo_eq]
    rfl

/-- Within the bit address space `PARSE_HEADER` reads 32 bits with the held header dropped; then the tests of R201
decide. Without 32 bits it clears the header. -/
theorem parseHeaderBody_ends {Q : BitVec 32 → State → Prop} {E : Code → State → Prop} {s : State}
    (hp : s.br.pos.toNat + 32 < 2 ^ 64) :
    Ends parseHeaderBody Q E s ↔
      Ends (readBits 32)
        (fun n r => Ends (judgeHeader (splitHeader (.ofNat 32 n)) s.br.pos) (fun _ t => Q (.ofNat 32 n) t) E r)
        (fun e r => E e (clearHeader r)) (s.withHdr { s.hdr with valid := false }) := by
  unfold parseHeaderBody
  simp only [ends_bind, ends_get, cursorCheck_ends, if_pos hp, ends_modify, ends_pure]
  unfold Ends fetchHeader
  cases readBits 32 (s.withHdr { s.hdr with valid := false }) <;> rfl

/-- A cursor that would leave the bit address space is refused at once (R24). -/
theorem parseHeaderBody_refused {Q : BitVec 32 → State → Prop} {E : Code → State → Prop} {s : State}
    (hp : ¬s.br.pos.toNat + 32 < 2 ^ 64) : Ends parseHeaderBody Q E s ↔ E .illegalCommand s := by
  unfold parseHeaderBody
  simp only [ends_bind, ends_get, cursorCheck_ends, if_neg hp]

/-- A code of the tests of R201 other than `OK` is an error. -/
theorem rowCode_isError {c : HeaderClass} (h : rowCode c ≠ .ok) : (rowCode c).isError = true := by
  revert h
  cases c <;> decide

/-- However it stands with the bit reader, `PARSE_HEADER` ends with an accepted header or raises an error. -/
theorem parseHeaderBody_accepts (s : State) :
    Ends parseHeaderBody
      (fun w t => ∃ r, r.cfg = s.cfg ∧ r.ses = s.ses ∧
        headerClass s.cfg.syncBits (splitHeader w) ∈ [.layer1, .layer2, .layer3] ∧
        t = acceptHeader (splitHeader w) s.br.pos r)
      (fun e _ => e.isError = true) s := by
  by_cases hp : s.br.pos.toNat + 32 < 2 ^ 64
  · refine (parseHeaderBody_ends hp).mpr ((readBits_frame 32 _).mono (fun n r hr => ?_) fun e r hr => hr.1 ▸ rfl)
    have hcfg : r.cfg = s.cfg := by rw [hr]; rfl
    have hses : r.ses = s.ses := by rw [hr]; rfl
    rw [judgeHeader_ends, hcfg]
    split_ifs with hok
    · exact ⟨r, hcfg, hses, rowCode_eq_ok_iff.mp hok, rfl⟩
    · exact rowCode_isError hok
  · exact (parseHeaderBody_refused hp).mpr rfl

theorem exec_parseHeader (s : State) : exec .parseHeader s = .next (runCommand parseHeaderBody s) := rfl

/-- A `PARSE_HEADER` that ended with `OK` has accepted a header, in a state r that differs from s neither in the
parameters nor in the session. -/
theorem parseHeader_ok_cases {s t : State} (h : exec .parseHeader s = .next t) (hcode : t.st.code = 0) :
    ∃ w r, r.cfg = s.cfg ∧ r.ses = s.ses ∧
      headerClass s.cfg.syncBits (splitHeader w) ∈ [.layer1, .layer2, .layer3] ∧
      t = endCommand .ok w (acceptHeader (splitHeader w) s.br.pos r) := by
  have ht := Host.Outcome.next.inj ((exec_parseHeader s).symm.trans h)
  obtain ⟨w, _, ⟨r, hcfg, hses, hc, rfl⟩, hrun⟩ | ⟨e, u, he, hrun⟩ :=
    runCommand_of_ends (parseHeaderBody_accepts (startCommand s))
  · exact ⟨w, r, hcfg, hses, hc, ht.symm.trans hrun⟩
  · rw [← ht, hrun] at hcode
    exact absurd hcode (Code.toByte_ne_zero he)

/-- The registers after a `PARSE_HEADER` that ended with `OK`. -/
theorem parseHeader_ok_fields {s t : State} (h : exec .parseHeader s = .next t) (hcode : t.st.code = 0) :
    ∃ w vbr, headerClass s.cfg.syncBits (splitHeader w) ∈ [.layer1, .layer2, .layer3] ∧ t.hdr.word = w ∧
      t.frm = headerFrm s.cfg.lsfHalveL2 (splitHeader w) vbr := by
  obtain ⟨w, r, hcfg, -, hc, rfl⟩ := parseHeader_ok_cases h hcode
  exact ⟨w, _, hc, join_split w, by rw [← hcfg]; rfl⟩

/-- Without 32 bits the header is cleared with the cursor in place; r is the state in which everything was pulled. -/
theorem runCommand_parseHeader_short {s : State} (hi : BrInv s) (hp : s.br.pos.toNat + 32 < 2 ^ 64)
    (hn : 8 * s.src.bytes.length < s.br.pos.toNat + 32) :
    ∃ r, r.br.pos = s.br.pos ∧
      r = { startCommand s with hdr := { s.hdr with valid := false }, br := r.br, freeCtr := r.freeCtr } ∧
      runCommand parseHeaderBody s = endCommand .streamExhausted 0 (clearHeader r) := by
  have hread := readBits_exhausted (s := (startCommand s).withHdr { s.hdr with valid := false })
    (hi.congr rfl rfl) hp hn
  refine ⟨pullTo (bytesFor (s.br.pos.toNat + 32)) ((startCommand s).withHdr { s.hdr with valid := false }),
    (pullTo_frame ..).pos, pullTo_eq .., runCommand_of_raises ?_⟩
  exact (parseHeaderBody_ends (s := startCommand s) hp).mpr ((Act.ends_iff_of_error hread).mpr ⟨rfl, rfl⟩)

/-- Settles O13: the word's row is accepted, and each register of `FRM` is read off its field. -/
theorem parseHeaderAccepts : Obligations.ParseHeaderAccepts := by
  unfold Obligations.ParseHeaderAccepts
  intro w s hi hp hn hw hc
  obtain ⟨r, hr, hpos, heq, hrun⟩ := runCommand_parseHeader hi hp hn
  have hword : wordAt s = w := hw.symm
  have hok : headerVerdict s.cfg.syncBits (wordAt s) = .ok := by
    rw [hword, headerVerdict_eq, rowCode_eq_ok_iff]
    exact hc
  obtain ⟨hv, -, -, -, hrow⟩ := headerClass_accepted hc
  have hl : (splitHeader w).layerCode ≠ 0 := by
    obtain ⟨-, hl⟩ | ⟨-, hl⟩ | ⟨-, hl⟩ := hrow <;> rw [hl] <;> decide
  have hversion : headerVersion (splitHeader w) =
      if w.extractLsb' 19 2 = 3 then 1 else if w.extractLsb' 19 2 = 2 then 2 else 3 := headerVersion_of_legal hv
  have hlayer : headerLayer (splitHeader w) =
      if w.extractLsb' 17 2 = 3 then 1 else if w.extractLsb' 17 2 = 2 then 2 else 3 := headerLayer_of_legal hl
  rw [if_pos hok, hword] at hrun
  refine ⟨_, congrArg Host.Outcome.next hrun, ?_, ?_, ?_, headerFrm_version_of_legal _ _ hv,
    headerFrm_layer_of_legal _ _ hl, ?_, ?_, ?_, ?_, ?_, ?_, ?_⟩
  · exact ended_endCommand (by rw [heq]; rfl) (by rw [heq]; rfl) (by rw [heq]; rfl)
  · show Hdr.mk (joinHeader (splitHeader w)) _ _ = _
    rw [join_split]
  · rw [heq]; rfl
  · exact apply_ite (BitVec.ofNat 2) ..
  · refine (headerFrm_bitrate_toNat hc _ _).trans (congrArg (1000 * ·) (getD_of_eq_append ?_ _))
    rw [hversion, hlayer]
    split_ifs <;> rfl
  · refine (headerFrm_rate_toNat hc _ _).trans (getD_of_eq_append ?_ _)
    rw [hversion]
    split_ifs <;> rfl
  · show r.br.pos.toNat = _
    rw [hpos]
    bv_omega
  · exact hr.pos
  · show Ses.mk .. = _
    rw [heq]; rfl
  · rw [heq]; rfl

/-- Settles O14: the sizes depend on the layer, the version and the channels as `FRM` holds them. -/
theorem acceptedHeaderSizes : Obligations.AcceptedHeaderSizes := by
  unfold Obligations.AcceptedHeaderSizes
  intro s t h hcode
  obtain ⟨w, vbr, -, -, hfrm⟩ := parseHeader_ok_fields h hcode
  rw [hfrm]
  simp only [ne_eq, headerFrm_layer_eq, headerFrm_version_eq, headerFrm_channels_eq, ite_not]
  simp only [headerFrm, headerSpf, headerSideBytes, apply_ite (BitVec.ofNat 16), apply_ite (BitVec.ofNat 8)]
  exact ⟨rfl, rfl⟩

/-- Settles O15: length and duration fit their registers, and an accepted rate is not 0. -/
theorem acceptedHeaderLength : Obligations.AcceptedHeaderLength := by
  unfold Obligations.AcceptedHeaderLength
  intro s t h hcode
  obtain ⟨w, vbr, hc, hword, hfrm⟩ := parseHeader_ok_fields h hcode
  obtain ⟨hrate, -⟩ := headerRate_bounds hc
  rw [hfrm, hword]
  simp only [ne_eq, headerFrm_layer_eq, headerFrm_version_eq, headerFrm_bitrate_toNat hc, headerFrm_rate_toNat hc,
    headerFrm_len_toNat hc, headerFrm_durUs_toNat, headerFrm_spf_toNat]
  refine ⟨rfl, rfl, fun h0 => ?_⟩
  have hzero : headerRate (splitHeader w) = 0 := by rw [← headerFrm_rate_toNat hc s.cfg.lsfHalveL2 vbr, h0]; rfl
  omega

/-- Settles O17: a word of a refused row, or no word, clears the header. -/
theorem parseHeaderRefuses : Obligations.ParseHeaderRefuses := by
  unfold Obligations.ParseHeaderRefuses
  refine fun s hi hp => ⟨fun w hn hw hrefused => ?_, fun hn => ?_⟩
  · obtain ⟨r, -, -, heq, hrun⟩ := runCommand_parseHeader hi hp hn
    rw [show wordAt s = w from hw.symm, if_neg hrefused] at hrun
    refine ⟨_, congrArg Host.Outcome.next hrun, ?_, Nat.mod_eq_of_lt (by omega), rfl, rfl, ?_⟩
    · rw [heq]; exact ended_endCommand rfl rfl rfl
    · rw [heq]; rfl
  · obtain ⟨r, hpos, heq, hrun⟩ := runCommand_parseHeader_short hi hp hn
    refine ⟨_, congrArg Host.Outcome.next hrun, ?_, hpos, rfl, rfl, ?_⟩
    · rw [heq]; exact ended_endCommand rfl rfl rfl
    · rw [heq]; rfl

/-! ## The range of the frame length (R213) -/

/-- The bitrates of R206 in kbit/s, by version and layer. -/
theorem kbps_range {i : BitVec 4} (h0 : i ≠ 0) (h15 : i ≠ 15) (v l : Nat) :
    (if v = 1 ∨ l = 1 then 32 else 8) ≤ (bitrateColumn v l).getD i.toNat 0 ∧
      (bitrateColumn v l).getD i.toNat 0 ≤
        if v = 1 then (if l = 1 then 448 else 384) else if l = 1 then 256 else 160 := by
  unfold bitrateColumn
  by_cases hv : v = 1 <;> by_cases hl : l = 1 <;> simp only [hv, hl, if_true, if_false, or_true, true_or, or_self]
  · decide +revert
  · by_cases hl2 : l = 2 <;> simp only [hl2, if_true, if_false] <;> decide +revert
  · decide +revert
  · decide +revert

/-- The sample rates of R207 in Hz, by version. -/
theorem rate_range {i : BitVec 2} (h3 : i ≠ 3) (v : Nat) :
    (if v = 1 then 32000 else 8000) ≤ (ratesHz v).getD i.toNat 0 ∧
      (ratesHz v).getD i.toNat 0 ≤ if v = 1 then 48000 else 24000 := by
  refine ⟨?_, (rate_bounds h3 v).2⟩
  split_ifs with hv
  · rw [hv]
    decide +revert
  · exact (rate_bounds h3 v).1

/-- A rounded quotient lies between two numbers when the dividend lies between their multiples. -/
theorem div_mem_range {a r lo hi : Nat} (hr : 0 < r) (hlo : lo * r ≤ a) (hhi : a < (hi + 1) * r) :
    lo ≤ a / r ∧ a / r ≤ hi :=
  ⟨(Nat.le_div_iff_mul_le hr).mpr hlo, Nat.le_of_lt_succ ((Nat.div_lt_iff_lt_mul hr).mpr hhi)⟩

/-- The length by its constant K (R212): Layer I, then MPEG-1, then the others with K = 72 and with K = 144. -/
theorem headerLen_range {sb : SyncBits} {h : HeaderFields} (halve : Bool)
    (hc : headerClass sb h ∈ [.layer1, .layer2, .layer3]) :
    24 ≤ headerLen halve h ∧ headerLen halve h ≤ if halve then 1729 else 2881 := by
  obtain ⟨-, h15, h3, h0, -⟩ := headerClass_accepted hc
  have hpad : h.padding.toNat < 2 := h.padding.isLt
  obtain ⟨hb, hb'⟩ := kbps_range h0 h15 (headerVersion h) (headerLayer h)
  obtain ⟨hr, hr'⟩ := rate_range h3 (headerVersion h)
  simp only [headerLen, lengthConstant, headerBitrate, headerRate]
  generalize (bitrateColumn (headerVersion h) (headerLayer h)).getD h.bitrateIndex.toNat 0 = b at hb hb' ⊢
  generalize (ratesHz (headerVersion h)).getD h.rateIndex.toNat 0 = r at hr hr' ⊢
  have hpos : 0 < r := by split_ifs at hr <;> omega
  have hmax : 1729 ≤ if halve then 1729 else 2881 := by split <;> decide
  by_cases hl : headerLayer h = 1
  · obtain ⟨hlo, hhi⟩ : 8 ≤ 12 * (1000 * b) / r ∧ 12 * (1000 * b) / r ≤ 384 := by
      simp only [hl, or_true, if_true] at hb hb'
      refine div_mem_range hpos ?_ ?_ <;> split_ifs at hr hr' hb' <;> omega
    rw [if_pos hl]
    omega
  · rw [if_neg hl]
    by_cases hv : headerVersion h = 1
    · obtain ⟨hlo, hhi⟩ : 96 ≤ 144 * (1000 * b) / r ∧ 144 * (1000 * b) / r ≤ 1728 := by
        simp only [hv, hl, or_false, if_true, if_false] at hb hb' hr hr'
        refine div_mem_range hpos ?_ ?_ <;> omega
      rw [if_neg fun h => h.1 hv]
      omega
    · simp only [hv, hl, or_self, if_false] at hb hb' hr hr'
      by_cases hK : headerVersion h ≠ 1 ∧ (headerLayer h = 3 ∨ halve = true)
      · obtain ⟨hlo, hhi⟩ : 24 ≤ 72 * (1000 * b) / r ∧ 72 * (1000 * b) / r ≤ 1440 :=
          div_mem_range hpos (by omega) (by omega)
        rw [if_pos hK]
        omega
      · obtain ⟨hlo, hhi⟩ : 48 ≤ 144 * (1000 * b) / r ∧ 144 * (1000 * b) / r ≤ 2880 :=
          div_mem_range hpos (by omega) (by omega)
        have hhalve : ¬halve = true := fun h => hK ⟨hv, .inr h⟩
        rw [if_neg hK, if_neg hhalve]
        omega

/-- Settles O16: the bounds by version and layer, and a header word for each end. -/
theorem frameLengthRange : Obligations.FrameLengthRange := by
  unfold Obligations.FrameLengthRange
  refine ⟨fun halve vbr h hc => ?_, by decide⟩
  obtain ⟨hlo, hhi⟩ := headerLen_range halve hc
  obtain ⟨h4, h16⟩ := headerLen_bounds halve hc
  rw [headerFrm_len_toNat hc]
  exact ⟨hlo, hhi, h4, by omega⟩

end Sys2Proof.Machine
end

section
/-! PROOFS. The variable-bitrate flag: an accepted header sets it by the bitrates, and no instruction but the three
resets clears it (R217). -/

-- One theorem after another: threads that wait for each other exhaust the memory limit with their stacks.
set_option Elab.async false

namespace Sys2Proof.Machine

open Act

/-! ## The relation -/

/-- `SES.vbr` is not cleared. -/
def KeepsVbr (s t : State) : Prop := s.ses.vbr = true → t.ses.vbr = true

theorem KeepsVbr.refl (s : State) : KeepsVbr s s := id

theorem KeepsVbr.trans (s t u : State) (h : KeepsVbr s t) (k : KeepsVbr t u) : KeepsVbr s u := k ∘ h

theorem keepsVbr_of_ses {s t : State} (h : t.ses = s.ses) : KeepsVbr s t := fun hv => h ▸ hv

theorem keepsVbr_of_granular {s t : State} (h : Granular s t) : KeepsVbr s t := keepsVbr_of_ses h.frame.ses

theorem keepsVbr_eqBoundary (s : State) : KeepsVbr s (eqBoundary s) := keepsVbr_of_ses (eqw_boundary s).ses

/-- An accepted header sets the flag when it changes the bitrate, and else keeps it. -/
theorem keepsVbr_acceptHeader (h : HeaderFields) (start : BitVec 64) (s : State) :
    KeepsVbr s (acceptHeader h start s) := fun hv => by
    show vbrAfter s.ses _ = true
    rw [vbrAfter, hv, Bool.true_or]

theorem keepsVbr_openSession (s : State) : KeepsVbr s (openSession s) := by
  unfold openSession
  split
  · exact .refl s
  · exact id

/-- A command keeps the flag when its body does. -/
theorem keepsVbr_runCommand {body : Act (BitVec 32)} (h : Keeps KeepsVbr body) (s : State) :
    KeepsVbr s (runCommand body s) := by
  obtain ⟨v, t, ht, hrun⟩ | ⟨e, t, ht, hrun⟩ := runCommand_of_ends (h (startCommand s)) <;> rw [hrun] <;> exact ht

/-- The next command of an expansion, after the boundary of `EQW`. -/
theorem keepsVbr_thenCommand {body : Act (BitVec 32)} (h : Keeps KeepsVbr body) (s : State) :
    KeepsVbr s (thenCommand body s) := .trans _ _ _ (keepsVbr_eqBoundary s) (keepsVbr_runCommand h _)

/-! ## Command bodies -/

section
variable {α : Type}

theorem vbr_bind {β : Type} {a : Act α} {k : α → Act β} (ha : Keeps KeepsVbr a) (hk : ∀ v, Keeps KeepsVbr (k v)) :
    Keeps KeepsVbr (a >>= k) := keeps_bind .trans ha hk

theorem vbr_pure (v : α) : Keeps KeepsVbr (pure v) := keeps_pure .refl v

theorem vbr_throw (e : Code) : Keeps KeepsVbr (throw e : Act α) := keeps_throw .refl e

theorem vbr_get : Keeps KeepsVbr (get : Act State) := keeps_get .refl

theorem vbr_modify {f : State → State} (h : ∀ s, (f s).ses = s.ses) : Keeps KeepsVbr (modify f : Act PUnit) :=
  keeps_modify fun s => keepsVbr_of_ses (h s)

theorem vbr_cursorCheck (n : Nat) : Keeps KeepsVbr (cursorCheck n) := keeps_ite (vbr_pure ()) (vbr_throw _)

end

theorem vbr_readBits (n : Nat) : Keeps KeepsVbr (readBits n) := fun s =>
  (readBits_frame n s).mono (fun _ t ht => keepsVbr_of_ses (by rw [ht])) fun _ t ht => keepsVbr_of_ses (by rw [ht.2])

theorem vbr_readbitsBody (n : Nat) : Keeps KeepsVbr (readbitsBody n) :=
  keeps_ite (vbr_bind vbr_get fun _ => vbr_bind (vbr_cursorCheck _) fun _ =>
    vbr_bind (vbr_readBits n) fun _ => vbr_pure _) (vbr_throw _)

theorem vbr_syncBody : Keeps KeepsVbr syncBody := by
  intro s
  have hpull (need p : Nat) : KeepsVbr s ((pullTo need s).withPos p) := keepsVbr_of_ses (pullTo_frame need s).ses
  unfold syncBody
  simp only [ends_bind, ends_get, cursorCheck_ends]
  split_ifs
  · cases syncFind s with
    | some p =>
      simp only [ends_bind, cursorCheck_ends, ends_set, ends_pure]
      split_ifs
      · exact hpull _ _
      · exact .refl s
    | none =>
      simp only [ends_bind, cursorCheck_ends, ends_set, ends_throw]
      split_ifs
      · exact hpull _ _
      · exact .refl s
  · exact .refl s

theorem vbr_refuseHeader {α : Type} (start : BitVec 64) (e : Code) : Keeps KeepsVbr (refuseHeader start e : Act α) :=
  fun s => by
    unfold Ends refuseHeader
    exact .refl s

theorem vbr_judgeHeader (h : HeaderFields) (start : BitVec 64) : Keeps KeepsVbr (judgeHeader h start) := by
  intro s
  rw [judgeHeader_ends]
  split
  · exact keepsVbr_acceptHeader h start s
  · exact .refl s

theorem vbr_parseHeaderBody : Keeps KeepsVbr parseHeaderBody := by
  intro s
  by_cases hp : s.br.pos.toNat + 32 < 2 ^ 64
  · rw [parseHeaderBody_ends hp]
    refine (vbr_readBits 32 _).mono (fun n r hr => ?_) fun _ _ hr => hr
    exact (vbr_judgeHeader _ _ r).mono (fun _ _ ht => .trans _ _ _ hr ht) fun _ _ ht => .trans _ _ _ hr ht
  · exact (parseHeaderBody_refused hp).mpr (.refl s)

theorem vbr_checkSession : Keeps KeepsVbr checkSession := fun s => by
  rw [checkSession_ends]
  split
  · exact keepsVbr_openSession s
  · exact .refl s

theorem vbr_fetchBody : Keeps KeepsVbr fetchBody := by
  intro s
  have hpull : KeepsVbr s (pullTo (bytesFor s.bodyEnd) s) := keepsVbr_of_ses (pullTo_frame _ s).ses
  have htake : KeepsVbr s (takeBody s) := keepsVbr_of_ses (by rw [takeBody_eq])
  unfold Ends fetchBody
  dsimp only
  split_ifs
  · exact hpull
  · exact htake

/-- A layer decoder leaves the session alone (R321, R483). -/
theorem vbr_decodeBody (layer : Nat) : Keeps KeepsVbr (decodeBody layer) := fun s =>
  (decodeBody_ends layer s).mpr <| (decodeLayer_ends layer s).mono
    (fun _ _ ht => by
      obtain ⟨u, hu, rfl⟩ := ht
      exact keepsVbr_of_ses ((granular_finishLayer layer u).frame.ses.trans hu.1.ses))
    fun _ _ ht => keepsVbr_of_ses ht.2.1.ses

theorem vbr_decodeHeld (layer : Nat) : Keeps KeepsVbr (decodeHeld layer) :=
  vbr_bind vbr_checkSession fun _ => vbr_bind vbr_fetchBody fun _ =>
    vbr_bind (vbr_modify fun s => by rw [makeSlot_eq]) fun _ =>
      vbr_bind (vbr_modify fun s => by unfold sinkClear; rw [onSink_fields]; rfl) fun _ =>
        vbr_bind (vbr_decodeBody layer) fun _ => vbr_bind vbr_get fun _ => vbr_pure _

theorem vbr_decodeFrameBody : Keeps KeepsVbr decodeFrameBody := by
  intro s
  have hdecode (layer : Nat) := vbr_decodeHeld layer (s.withHdr { s.hdr with valid := false })
  unfold decodeFrameBody
  simp only [ends_bind, ends_get, ends_set, ends_ite, ends_throw, cursorCheck_ends]
  by_cases hheld : s.headerHeld = true
  · simp only [hheld, if_true]
    split_ifs
    · exact id
    · exact hdecode _
    · exact id
  · simp only [hheld, if_false, Bool.false_eq_true, if_true]
    exact id

theorem vbr_refuseFetched (e : Code) : Keeps KeepsVbr (refuseFetched e) :=
  vbr_bind vbr_get fun _ => vbr_refuseHeader _ _

/-- A frame row accepts its header and decodes the frame. -/
theorem vbr_frameBody (layerCode : BitVec 2) (h : HeaderFields) : Keeps KeepsVbr (frameBody layerCode h) :=
  vbr_bind (keeps_modify fun s => keepsVbr_acceptHeader _ _ s) fun _ => vbr_decodeFrameBody

theorem vbr_eqSetbandBody (band : BitVec 8) (value : BitVec 32) : Keeps KeepsVbr (eqSetbandBody band value) := by
  intro s
  unfold Ends
  rw [eqSetband_eq]
  by_cases h : 32 ≤ band.toNat ∨ Num.isNaN (bandValue s value) = true
  · rw [if_pos h]
    exact .refl s
  · rw [if_neg h]
    exact .refl s

theorem vbr_eqApplyBody : Keeps KeepsVbr eqApplyBody :=
  vbr_bind (vbr_modify fun _ => rfl) fun _ => vbr_bind (vbr_modify fun s => (eqw_boundary s).ses) fun _ =>
    vbr_bind (vbr_modify fun _ => rfl) fun _ => vbr_pure _

theorem vbr_setOutputBody (sink : BitVec 32) : Keeps KeepsVbr (setOutputBody sink) := by
  intro s
  unfold setOutputBody
  simp only [ends_bind, ends_get, ends_ite, ends_throw, ends_modify, ends_pure]
  split_ifs <;> exact .refl s

theorem vbr_getParamBody (sel : BitVec 8) (idx : BitVec 32) : Keeps KeepsVbr (getParamBody sel idx) := by
  intro s
  unfold getParamBody
  simp only [ends_bind, ends_get, ends_ite, ends_throw, ends_pure]
  split_ifs <;> exact .refl s

/-! ## Pseudo-instructions (R161) -/

theorem keepsVbr_setBands (values : Vector (BitVec 32) 32) (s : State) : KeepsVbr s (setBands values s) :=
  have hfirst := keepsVbr_runCommand (vbr_eqSetbandBody 0 (rd values 0)) s
  hfirst.trans _ _ _ (loop_keeps KeepsVbr.refl KeepsVbr.trans
    (fun i => keepsVbr_thenCommand (vbr_eqSetbandBody (.ofNat 8 (i + 1)) (rd values (i + 1)))) 31 _)

theorem keepsVbr_nextHeaderLoop (fuel : Nat) (s : State) : KeepsVbr s (nextHeaderLoop fuel s) := by
  induction fuel generalizing s with
  | zero => exact .refl s
  | succ fuel ih =>
    have hsync := keepsVbr_runCommand vbr_syncBody s
    have hparse := hsync.trans _ _ _ (keepsVbr_thenCommand vbr_parseHeaderBody _)
    unfold nextHeaderLoop
    dsimp only
    split_ifs
    · exact hsync
    · exact hparse
    · exact (hparse.trans _ _ _ (keepsVbr_eqBoundary _)).trans _ _ _ (ih _)

theorem keepsVbr_decodeNext (s : State) : KeepsVbr s (decodeNext s) := by
  have hnext : KeepsVbr s (nextHeader s) := keepsVbr_nextHeaderLoop _ s
  unfold decodeNext
  dsimp only
  split_ifs
  · exact hnext.trans _ _ _ (keepsVbr_thenCommand vbr_decodeFrameBody _)
  · exact hnext

/-! ## Instructions -/

/-- Every instruction but the three resets answers with a state that keeps the flag. -/
theorem keepsVbr_exec {i : Instr} (hi : i ∉ [Instr.restart, .reinit, .reset]) (s : State) :
    ∃ t, exec i s = .next t ∧ KeepsVbr s t := by
  cases i
  case restart | reinit | reset => exact absurd hi (by simp)
  case readbits n => exact ⟨_, rfl, keepsVbr_runCommand (vbr_readbitsBody _) s⟩
  case readbit => exact ⟨_, rfl, keepsVbr_runCommand (vbr_readbitsBody 1) s⟩
  case sync => exact ⟨_, rfl, keepsVbr_runCommand vbr_syncBody s⟩
  case parseHeader => exact ⟨_, rfl, keepsVbr_runCommand vbr_parseHeaderBody s⟩
  case decodeFrame => exact ⟨_, rfl, keepsVbr_runCommand vbr_decodeFrameBody s⟩
  case eqSetband band value => exact ⟨_, rfl, keepsVbr_runCommand (vbr_eqSetbandBody band value) s⟩
  case eqApply => exact ⟨_, rfl, keepsVbr_runCommand vbr_eqApplyBody s⟩
  case setOutput sink => exact ⟨_, rfl, keepsVbr_runCommand (vbr_setOutputBody sink) s⟩
  case getParam sel idx => exact ⟨_, rfl, keepsVbr_runCommand (vbr_getParamBody sel idx) s⟩
  case illegalCmd w => exact ⟨_, rfl, keepsVbr_runCommand (vbr_throw _) s⟩
  case nextHeader => exact ⟨_, rfl, keepsVbr_nextHeaderLoop _ s⟩
  case setEqualizer values =>
    exact ⟨_, rfl, (keepsVbr_setBands values s).trans _ _ _ (keepsVbr_thenCommand vbr_eqApplyBody _)⟩
  case decodeNext => exact ⟨_, rfl, keepsVbr_decodeNext s⟩
  case frameL1 h | frameL2 h | frameL3 h => exact ⟨_, rfl, keepsVbr_runCommand (vbr_frameBody _ h) s⟩
  case hdrNoSync | hdrRsvVersion | hdrRsvLayer | hdrRsvBitrate | hdrRsvRate | hdrFreeFormat =>
    exact ⟨_, rfl, keepsVbr_runCommand (vbr_refuseFetched _) s⟩
  case blkNormal | blkStart | blkShort | blkMixed | blkStop =>
    exact ⟨_, rfl, keepsVbr_of_granular (granular_hybrid _ _ s)⟩
  case blkReserved | tsel4 | tsel14 => exact ⟨_, rfl, keepsVbr_of_granular (granular_reservedSelector s)⟩
  case count1A | count1B => exact ⟨_, rfl, keepsVbr_of_granular (granular_quadStep _ s)⟩
  all_goals exact ⟨_, rfl, keepsVbr_of_granular (granular_pairStep _ s)⟩

/-- `SES.vbr` after an accepted header: set before, or set by a bitrate that differs from the one before it (R217). -/
theorem vbrAfter_eq_true_iff (ses : Ses) (bitrate : BitVec 32) :
    vbrAfter ses bitrate = true ↔ ses.vbr = true ∨ (ses.prevBitrate ≠ 0 ∧ ses.prevBitrate ≠ bitrate) := by
  simp only [vbrAfter, Bool.or_eq_true, Bool.and_eq_true, bne_iff_ne]

/-- Settles O18: an accepted header sets the flag by its bitrate, the resets clear it, and nothing else does. -/
theorem vbrFlagFollowsTheBitrates : Obligations.VbrFlagFollowsTheBitrates := by
  unfold Obligations.VbrFlagFollowsTheBitrates
  refine ⟨fun s t h hcode => ?_, fun s i hi => ?_, fun i s t hi h => ?_⟩
  · obtain ⟨w, r, -, hses, -, rfl⟩ := parseHeader_ok_cases h hcode
    rw [← hses]
    exact ⟨vbrAfter_eq_true_iff .., rfl, rfl⟩
  · simp only [List.mem_cons, List.not_mem_nil, or_false] at hi
    obtain rfl | rfl | rfl := hi <;> exact ⟨_, rfl, rfl⟩
  · obtain ⟨u, hu, hvbr⟩ := keepsVbr_exec hi s
    rw [← Host.Outcome.next.inj (hu.symm.trans h)]
    exact hvbr

end Sys2Proof.Machine
end

section
/-! PROOFS. The synthesis call: the history it leaves, the samples it emits, and what it does not touch (R246, R250 to
R255). -/

-- One theorem after another: threads that wait for each other exhaust the memory limit with their stacks.
set_option Elab.async false

namespace Sys2Proof.Machine

/-! ## What a call leaves -/

/-- The history of channel ch after a call (R250 steps 1 to 3). -/
def historyAfter (ch : Nat) (s : State) : Vector Sample 1024 :=
  nextHistory s.cfg.num (rd s.sf ch).v (scaleInputs s.cfg.num (rd s.tr.sbs ch) (rd s.sf ch).eqf)

/-- A call writes the history of one filter, and the sinks. -/
theorem synthCall_fields (ch : Nat) (s : State) :
    synthCall ch s =
      { s with sf := wr s.sf ch { rd s.sf ch with v := historyAfter ch s }, sinks := (synthCall ch s).sinks } :=
  onSink_fields _ _

theorem synthCall_sf (ch : Nat) (s : State) :
    (synthCall ch s).sf = wr s.sf ch { rd s.sf ch with v := historyAfter ch s } := by
  rw [synthCall_fields]

theorem synthCall_filter {ch : Nat} (s : State) (hch : ch < 2) :
    rd (synthCall ch s).sf ch = { rd s.sf ch with v := historyAfter ch s } := by
  rw [synthCall_sf, rd_wr_self _ _ _ hch]

theorem synthCall_history {ch : Nat} (s : State) (hch : ch < 2) :
    (rd (synthCall ch s).sf ch).v = historyAfter ch s := by
  rw [synthCall_filter s hch]

/-- The bound sink gets the samples of the new history in its channel; every other sink stays (R96, R250 step 6). -/
theorem rd_synthCall_sinks (ch : Nat) (s : State) {k : Nat} (hk : k < 256) :
    rd (synthCall ch s).sinks k =
      if s.outSink ≠ 0 ∧ k = s.outSink.toNat then
        { data := upd (rd s.sinks k).data ch (· ++ emit s.cfg (historyAfter ch s)) }
      else rd s.sinks k :=
  rd_onSink _ _ k hk

theorem rd_synthCall_bound (ch : Nat) {s : State} (ho : s.outSink ≠ 0) (c : Nat) :
    rd (rd (synthCall ch s).sinks s.outSink.toNat).data c =
      if ch = c ∧ c < 2 then rd (rd s.sinks s.outSink.toNat).data ch ++ emit s.cfg (historyAfter ch s)
      else rd (rd s.sinks s.outSink.toNat).data c := by
  rw [rd_synthCall_sinks ch s s.outSink.isLt, if_pos ⟨ho, rfl⟩, rd_upd]

theorem synthCall_sinkSize {ch : Nat} {s : State} (hch : ch < 2) (ho : s.outSink ≠ 0) :
    (synthCall ch s).sinkSize s.outSink.toNat = s.sinkSize s.outSink.toNat + 64 := by
  have h := sinkSize_append (emit s.cfg (historyAfter ch s))
    (s := s.withSf (wr s.sf ch { rd s.sf ch with v := historyAfter ch s })) hch ho
  rwa [length_emit] at h

/-! ## The history (R250, R251, R253) -/

/-- The newest vector is the matrix times the scaled inputs. -/
theorem rd_historyAfter_new (ch : Nat) (s : State) {i : Nat} (hi : i < 64) :
    rd (historyAfter ch s) i = sum s.cfg.num 32 fun k =>
      Num.mul s.cfg.num (matrixN s.cfg.num i k)
        (Num.mul s.cfg.num (rd (rd s.tr.sbs ch) k) (rd (rd s.sf ch).eqf k)) := by
  have hread : rd (historyAfter ch s) i = sum s.cfg.num 32 fun k =>
      Num.mul s.cfg.num (matrixN s.cfg.num i k)
        (rd (scaleInputs s.cfg.num (rd s.tr.sbs ch) (rd s.sf ch).eqf) k) :=
    (rd_tab _ i (by omega)).trans (if_pos hi)
  rw [hread]
  exact sum_congr _ _ fun k hk => congrArg _ (rd_tab _ k hk)

/-- The vectors before it are those of the old history, one place older. -/
theorem rd_historyAfter_old (ch : Nat) (s : State) {i : Nat} (h64 : 64 ≤ i) (hi : i < 1024) :
    rd (historyAfter ch s) i = rd (rd s.sf ch).v (i - 64) :=
  (rd_tab _ i hi).trans (if_neg (by omega))

/-! ## The samples (R252, R254, R255) -/

/-- `U` takes the first half of a vector of even age and the second half of one of odd age. -/
theorem unfoldHistory_eq (v : Vector Sample 1024) (i : Nat) {j : Nat} (hj : j < 32) :
    unfoldHistory v (j + 32 * i) = rd v (if i % 2 = 0 then 64 * i + j else 64 * i + 32 + j) := by
  unfold unfoldHistory
  refine congrArg (rd v) ?_
  rcases Nat.mod_two_eq_zero_or_one i with h | h
  · rw [if_pos (by omega), if_pos h]
    omega
  · rw [if_neg (by omega), if_neg (by omega)]
    omega

theorem emit_eq (c : Config) (v : Vector Sample 1024) :
    emit c v = (List.range 32).map fun j =>
      Num.toPcm c.num c.pcmRound (Num.mul c.num
        (sum c.num 16 fun i => Num.mul c.num (rd v (if i % 2 = 0 then 64 * i + j else 64 * i + 32 + j))
          (rd c.synthWindow (j + 32 * i)))
        c.outScale) := by
  refine List.map_congr_left fun j hj => ?_
  unfold windowSum
  simp only [unfoldHistory_eq v _ (List.mem_range.mp hj)]

/-- Settles O39: the filter and the sinks after the call, read element by element. -/
theorem synthesisCallAgesTheHistory : Obligations.SynthesisCallAgesTheHistory := by
  unfold Obligations.SynthesisCallAgesTheHistory
  intro ch s hch
  rw [synthCall_history s hch]
  refine ⟨fun i h64 hi => rd_historyAfter_old ch s h64 hi, fun i hi => rd_historyAfter_new ch s hi, ?_,
    fun c _ hne => ?_, fun ho => ⟨?_, synthCall_sinkSize hch ho, fun c _ hne => ?_⟩, fun k hk h => ?_, ?_⟩
  · rw [synthCall_filter s hch]
  · rw [synthCall_sf, rd_wr_other _ _ _ _ hne.symm]
  · rw [rd_synthCall_bound ch ho, if_pos ⟨rfl, hch⟩, emit_eq]
  · rw [rd_synthCall_bound ch ho, if_neg fun h => hne h.1.symm]
  · rw [rd_synthCall_sinks ch s hk, if_neg fun hb => h.elim hb.1 fun hne => hne hb.2]
  · rw [synthCall_sf]
    exact synthCall_fields ch s

end Sys2Proof.Machine
end

section
/-! PROOFS. Silence: a zero history with zero input stays zero and emits zeros (R257). -/

-- One theorem after another: threads that wait for each other exhaust the memory limit with their stacks.
set_option Elab.async false

namespace Sys2Proof.Machine.Num

/-- A zero of either sign, or not a number: what `ToPcm` maps to 0 whatever a zero was multiplied with. -/
def Silent (x : Sample) : Prop := IsZero x ∨ x = .nan

theorem silent_zero : Silent zero := .inl isZero_zero

/-- A zero times a finite value is a zero, times an infinity it is not a number. -/
theorem silent_mul (n : NumSystem) {x : Sample} (hx : Silent x) (y : Sample) : Silent (mul n x y) := by
  rcases hx with ⟨s, rfl⟩ | rfl
  · cases y with
    | fin t k f => exact .inl ⟨_, mul_zero_fin ..⟩
    | inf t => exact .inr rfl
    | nan => exact .inr rfl
  · exact .inr (mul_nan_left n y)

theorem silent_add (n : NumSystem) {x y : Sample} (hx : Silent x) (hy : Silent y) : Silent (add n x y) := by
  rcases hx with ⟨s, rfl⟩ | rfl
  · rcases hy with ⟨t, rfl⟩ | rfl
    · exact .inl ⟨s && t, by cases s <;> cases t <;> rfl⟩
    · exact .inr (add_nan_right n _)
  · exact .inr (add_nan_left n y)

theorem toPcm_silent (n : NumSystem) (mode : PcmRound) {x : Sample} (hx : Silent x) : toPcm n mode x = 0 := by
  rcases hx with ⟨s, rfl⟩ | rfl
  · cases mode with
    | truncate => cases s <;> rfl
    | nearest => cases n <;> cases s <;> decide +kernel
  · rfl

end Sys2Proof.Machine.Num

namespace Sys2Proof.Machine

open Sys2Proof.Machine.Num (IsZero Silent isZero_zero isZero_mul_left isZero_mul_right silent_zero silent_mul silent_add
  toPcm_silent)

theorem sum_silent (n : NumSystem) (k : Nat) {f : Nat → Sample} (h : ∀ i < k, Silent (f i)) : Silent (sum n k f) := by
  induction k with
  | zero => exact silent_zero
  | succ k ih =>
    rw [sum_succ]
    exact silent_add n (ih fun i hi => h i (by omega)) (h k (by omega))

/-- A zero history is silent under every window and every output scale (R252, R254). -/
theorem emit_zero_history (c : Config) {v : Vector Sample 1024} (hv : ∀ i < 1024, rd v i = Machine.Num.zero) :
    emit c v = List.replicate 32 0 := by
  have hlane (j : Nat) (hj : j < 32) (i : Nat) (hi : i < 16) : Silent (unfoldHistory v (j + 32 * i)) := by
    rw [unfoldHistory_eq v i hj, hv _ (by split <;> omega)]
    exact silent_zero
  refine List.eq_replicate_iff.mpr ⟨length_emit c v, fun p hp => ?_⟩
  obtain ⟨j, hj, rfl⟩ := List.mem_map.mp hp
  have hsum : Silent (windowSum c.num c.synthWindow v j) :=
    sum_silent _ _ fun i hi => silent_mul _ (hlane j (List.mem_range.mp hj) i hi) _
  exact toPcm_silent _ _ (silent_mul _ hsum _)

/-- A zero history ages to a zero history when every scaled input is a zero: the matrix is finite. -/
theorem historyAfter_zero {ch : Nat} {s : State} (hv : ∀ i < 1024, rd (rd s.sf ch).v i = Machine.Num.zero)
    (hx : ∀ k < 32, IsZero (Num.mul s.cfg.num (rd (rd s.tr.sbs ch) k) (rd (rd s.sf ch).eqf k))) {i : Nat}
    (hi : i < 1024) : rd (historyAfter ch s) i = Machine.Num.zero := by
  rcases Nat.lt_or_ge i 64 with h64 | h64
  · rw [rd_historyAfter_new ch s h64]
    exact sum_isZero _ _ _ fun k hk => isZero_mul_right _ (matrixN_finite _ h64 hk) (hx k hk)
  · rw [rd_historyAfter_old ch s h64 hi, hv _ (by omega)]

/-- Settles O40: each scaled input is a zero, so the new history is zero, and a zero history is silent. -/
theorem zeroInZeroOut : Obligations.ZeroInZeroOut := by
  unfold Obligations.ZeroInZeroOut
  intro ch s hch ho hv hlane
  have hx (k : Nat) (hk : k < 32) :
      IsZero (Num.mul s.cfg.num (rd (rd s.tr.sbs ch) k) (rd (rd s.sf ch).eqf k)) := by
    rcases hlane k hk with ⟨hinput, hfinite⟩ | ⟨hcoef, hfinite⟩
    · rw [hinput]
      exact isZero_mul_left _ isZero_zero hfinite
    · rw [hcoef]
      exact isZero_mul_right _ hfinite isZero_zero
  have hzero : ∀ i < 1024, rd (historyAfter ch s) i = Machine.Num.zero := fun i hi => historyAfter_zero hv hx hi
  refine ⟨?_, ?_⟩
  · rwa [synthCall_history s hch]
  · rw [rd_synthCall_bound ch ho, if_pos ⟨rfl, hch⟩, emit_zero_history _ hzero]

end Sys2Proof.Machine
end

section
/-! PROOFS. The corners of the conversion to 16 bits (R255, R256). -/

-- One theorem after another: threads that wait for each other exhaust the memory limit with their stacks.
set_option Elab.async false

namespace Sys2Proof.Machine.Num

/-- Both ends of the 16-bit range are exact in every format. -/
theorem ofNat_pcmMax (n : NumSystem) : ofNat n 32767 = pcmMax := by cases n <;> decide +kernel

theorem neg_ofNat_pcmMin (n : NumSystem) : neg (ofNat n 32768) = pcmMin := by cases n <;> decide +kernel

theorem isNaN_of_le_right {x y : Sample} (h : le x y = true) : isNaN y = false := by
  cases y with
  | fin t k f => rfl
  | inf t => rfl
  | nan => cases x <;> exact absurd h (by simp [le])

theorem isNaN_of_le_left {x y : Sample} (h : le x y = true) : isNaN x = false := by
  cases x with
  | fin t k f => rfl
  | inf t => rfl
  | nan => exact absurd h (by simp [le])

theorem signedInt_false_nonneg (m : Nat) : 0 ≤ signedInt false m := Int.natCast_nonneg m

theorem signedInt_true_nonpos (m : Nat) : signedInt true m ≤ 0 := Int.neg_nonpos_of_nonneg (Int.natCast_nonneg m)

theorem signedInt_false_pos {m : Nat} (h : 0 < m) : 0 < signedInt false m := Int.natCast_pos.mpr h

theorem signedInt_true_neg {m : Nat} (h : 0 < m) : signedInt true m < 0 := Int.neg_neg_of_pos (Int.natCast_pos.mpr h)

/-- What is at most `pcmMin` has its sign set, so it is below `pcmMax`: the order of the two tests does not matter. -/
theorem not_pcmMax_le_of_le_pcmMin {x : Sample} (h : le x pcmMin = true) : le pcmMax x = false := by
  cases x with
  | nan => rfl
  | inf s => cases s with
    | false => exact absurd h (by decide)
    | true => rfl
  | fin s m e => cases s with
    | false =>
      refine absurd (of_decide_eq_true h)
        (not_le.mpr (lt_of_lt_of_le (signedInt_true_neg ?_) (signedInt_false_nonneg _)))
      positivity
    | true =>
      refine decide_eq_false (not_le.mpr (lt_of_le_of_lt (signedInt_true_nonpos _) (signedInt_false_pos ?_)))
      positivity

theorem toPcm_of_pcmMax_le (n : NumSystem) (mode : PcmRound) {x : Sample} (h : le pcmMax x = true) :
    toPcm n mode x = 32767 := by
  simp [toPcm, isNaN_of_le_right h, h]

theorem toPcm_of_le_pcmMin (n : NumSystem) (mode : PcmRound) {x : Sample} (h : le x pcmMin = true) :
    toPcm n mode x = -32768 := by
  simp [toPcm, isNaN_of_le_left h, not_pcmMax_le_of_le_pcmMin h, h]

/-- The corners inside the range lose their fraction towards zero, in every format. -/
theorem toPcm_truncates_corners (n : NumSystem) :
    toPcm n .truncate (packRatio n false 999 1000 0) = 0 ∧
    toPcm n .truncate (packRatio n true 999 1000 0) = 0 ∧
    toPcm n .truncate (packRatio n false 65533 2 0) = 32766 ∧
    toPcm n .truncate (packRatio n true 327679 10 0) = -32767 := by
  cases n <;> decide +kernel

/-- Settles O41: inside the range by evaluation in each format, at and beyond its ends for every value. -/
theorem pcmConversionCorners : Obligations.PcmConversionCorners := by
  unfold Obligations.PcmConversionCorners
  intro n
  rw [ofNat_pcmMax, neg_ofNat_pcmMin]
  obtain ⟨hplus, hminus, hhalf, hlow⟩ := toPcm_truncates_corners n
  exact ⟨hplus, hminus, hhalf, hlow, fun _ => toPcm_of_pcmMax_le n .truncate, rfl,
    fun _ => toPcm_of_le_pcmMin n .truncate, rfl, rfl⟩

end Sys2Proof.Machine.Num
end

section
/-! PROOFS. Layer I and II frames end with `OK`: a body that fits, one of zeros among them, is read to its end, and
feeding the filters raises nothing (R271 to R279, R291 to R306, R441). -/

-- One theorem after another: threads that wait for each other exhaust the memory limit with their stacks.
set_option Elab.async false

namespace Sys2Proof.Machine

open Act

/-! ## Bodies of zeros -/

theorem bitAt_of_zeros {bytes : List Byte} (h : ∀ x ∈ bytes, x = 0) (k : Nat) : bitAt bytes k = false := by
  have hbyte : bytes.getD (k / 8) 0 = 0 := by
    rw [List.getD_eq_getElem?_getD]
    cases hx : bytes[k / 8]? with
    | none => rfl
    | some x => exact h x (List.mem_of_getElem? hx)
  unfold bitAt
  rw [hbyte]
  exact BitVec.getLsbD_zero

theorem bitsAt_of_zeros {bytes : List Byte} (h : ∀ x ∈ bytes, x = 0) (p n : Nat) : bitsAt bytes p n = 0 := by
  induction n with
  | zero => exact bitsAt_zero bytes p
  | succ n ih => rw [bitsAt_succ, ih, bitAt_of_zeros h, Bool.toNat_false]

section
variable {b : BodyPlan} (h : ∀ x ∈ b.bytes, x = 0)
include h

/-- Zeros allocate nothing. -/
theorem BodyPlan.code_of_zeros (j : Nat) : b.code j = 0 := bitsAt_of_zeros h ..

theorem BodyPlan.allocated_of_zeros (n : Nat) : b.allocated n = false := by
  unfold BodyPlan.allocated BodyPlan.alloc
  rw [BodyPlan.code_of_zeros h, ite_self]
  rfl

theorem BodyPlan.before_of_zeros (n : Nat) : b.before n = [] :=
  List.filter_eq_nil_iff.mpr fun i _ => by rw [BodyPlan.allocated_of_zeros h i]; decide

/-- So a body of zeros ends with its allocation (R274). -/
theorem BodyPlan.setPos1_of_zeros (i : Nat) : b.setPos1 i = b.codesEnd := by
  have hbits : b.sampleBits1 = fun _ => 0 := funext fun j => if_pos (BodyPlan.code_of_zeros h j)
  simp [BodyPlan.setPos1, BodyPlan.factorPos1, BodyPlan.offset1, BodyPlan.before_of_zeros h, hbits]

theorem BodyPlan.setPos2_of_zeros (c : Config) (t : List AllocRow) (i : Nat) : b.setPos2 c t i = b.codesEnd := by
  have hbits : b.tripleBits2 c t = fun _ => 0 := funext fun j => if_pos (BodyPlan.code_of_zeros h j)
  simp [BodyPlan.setPos2, BodyPlan.factorPos2, BodyPlan.offset2, BodyPlan.before_of_zeros h, hbits]

theorem BodyPlan.fits1_of_zeros (hend : b.codesEnd ≤ b.size) : b.Fits1 where
  codes j _ := by rw [BodyPlan.code_of_zeros h]; decide
  factors n _ ha := absurd ha (by rw [BodyPlan.allocated_of_zeros h]; decide)
  room := (BodyPlan.setPos1_of_zeros h 12).trans_le hend

theorem BodyPlan.fits2_of_zeros (c : Config) (t : List AllocRow) (hend : b.codesEnd ≤ b.size) : b.Fits2 c t where
  factors n _ ha := absurd ha (by rw [BodyPlan.allocated_of_zeros h]; decide)
  room := (BodyPlan.setPos2_of_zeros h c t 12).trans_le hend

end

/-! ## Bodies that fit (R272 to R274, R298, R299) -/

/-- The Layer I or Layer II body in `FB` fits. -/
def BodyFits (layer : Nat) (s : State) : Prop :=
  layer = 1 ∧ (layer1Plan s).Fits1 ∨ layer = 2 ∧ (layer2Plan s).Fits2 s.cfg s.allocTable2.1

theorem BodyFits.layer {layer : Nat} {s : State} (h : BodyFits layer s) : layer = 1 ∨ layer = 2 :=
  h.imp And.left And.left

/-- A body that fits is read to its end. -/
theorem BodyFits.decodes {layer : Nat} {s : State} (h : BodyFits layer s) (hnch : s.nch = 1 ∨ s.nch = 2)
    (hsize : s.fbSize < 2 ^ 32) : ∃ u, decodeLayer layer s = .ok () u := by
  obtain ⟨rfl, hfits⟩ | ⟨rfl, hfits⟩ := h
  · obtain ⟨-, -, hdecode, -, -, -, hreads⟩ := layerOneBodyIsRead.2 s _ rfl hnch hsize
    obtain ⟨t, hparse, -⟩ := hreads hfits
    exact ⟨_, by rw [hdecode, hparse]⟩
  · obtain ⟨-, -, -, -, -, hdecode, -, -, -, hreads⟩ := layerTwoBodyIsRead.2.2 s _ _ _ _ rfl rfl rfl hnch hsize
    obtain ⟨t, hparse, -⟩ := hreads hfits
    exact ⟨_, by rw [hdecode, hparse]⟩

/-- The output of Layers I and II is synthesis calls: it raises no warning. -/
theorem finishLayer_synthFrame {layer : Nat} (h : layer = 1 ∨ layer = 2) (s : State) :
    SynthFrame s (finishLayer layer s) := by
  obtain rfl | rfl := h
  · exact feedGrid_frame 12 s.nch s
  · exact feedGrid_frame 36 s.nch s

/-! ## The frame (R441) -/

/-- A held header names one channel or two. -/
theorem frameStart_nch {s : State} (hh : HeldInv s) (hv : s.hdr.valid = true) :
    (frameStart s).nch = 1 ∨ (frameStart s).nch = 2 := by
  rw [nch_of_frm (s := s) (by rw [frameStart_eq]), State.nch, (hh hv).2, headerFrm_channels, headerChannels]
  split
  · exact .inl rfl
  · exact .inr rfl

theorem layer1Plan_frameStart_bytes (s : State) : (layer1Plan (frameStart s)).bytes = s.bodyBytes := by
  rw [layer1Plan, frameStart_eq]

theorem layer2Plan_frameStart_bytes (s : State) : (layer2Plan (frameStart s)).bytes = s.bodyBytes := by
  rw [layer2Plan, frameStart_eq]

theorem frameStart_fbSize (s : State) : (frameStart s).fbSize = 8 * s.bodyLen := by
  rw [frameStart_eq, State.fbSize, length_bodyBytes]

/-- A Layer I body of zeros that holds its allocation fits. -/
theorem fits1_of_zeroBody {s : State} (hzero : ∀ x ∈ s.bodyBytes, x = 0)
    (hend : (layer1Plan (frameStart s)).codesEnd ≤ 8 * s.bodyLen) : (layer1Plan (frameStart s)).Fits1 :=
  BodyPlan.fits1_of_zeros (by rwa [layer1Plan_frameStart_bytes]) (hend.trans_eq (frameStart_fbSize s).symm)

/-- A Layer II body of zeros that holds its allocation fits. -/
theorem fits2_of_zeroBody {s : State} (c : Config) (t : List AllocRow) (hzero : ∀ x ∈ s.bodyBytes, x = 0)
    (hend : (layer2Plan (frameStart s)).codesEnd ≤ 8 * s.bodyLen) : (layer2Plan (frameStart s)).Fits2 c t :=
  BodyPlan.fits2_of_zeros (by rwa [layer2Plan_frameStart_bytes]) c t (hend.trans_eq (frameStart_fbSize s).symm)

/-- A frame whose body fits ends with `OK` and without a warning. -/
theorem fittingFrame_ends {s : State} (hi : BrInv s) (hh : HeldInv s) (hr : FrameReady s)
    (hfits : BodyFits s.frm.layer.toNat (frameStart s)) :
    ∃ t, exec .decodeFrame s = .next t ∧ Ended .ok (s.frm.spf.setWidth 32) s t ∧
      t.hdr = { s.hdr with valid := false } ∧ t.frm = s.frm := by
  have hstart := frameStart_eq s
  have hsize : (frameStart s).fbSize < 2 ^ 32 := by
    have hlen : s.frm.len.toNat < 2 ^ 16 := s.frm.len.isLt
    rw [frameStart_fbSize, State.bodyLen]
    omega
  obtain ⟨_, hd⟩ := hfits.decodes (frameStart_nch hh hr.valid) hsize
  obtain ⟨u, ⟨hparse, -⟩, rfl⟩ := (decodeLayer_ends _ _).of_ok hd
  have hfed := finishLayer_synthFrame hfits.layer u
  generalize finishLayer s.frm.layer.toNat u = v at hd hfed
  have hfirst : v.st.first = 0 := by rw [hfed.first, hparse.st, hstart]; rfl
  have hgerr : v.st.gerr = s.st.gerr := by rw [hfed.gerr, hparse.st, hstart]; rfl
  have hcp : v.cp = s.cp := by rw [hfed.cp, hparse.cp, hstart]
  have hhdr : v.hdr = { s.hdr with valid := false } := by rw [hfed.hdr, hparse.hdr, hstart]
  have hfrm : v.frm = s.frm := by rw [hfed.frm, hparse.frm, hstart]
  exact ⟨_, exec_decodeFrame_of_ok hi hr hd, ended_endCommand hfirst hgerr hcp, hhdr, hfrm⟩

/-- By its row: the frame of a header just accepted. -/
theorem fittingFrame_row_ends {h : HeaderFields} {s : State} (hi : BrInv s)
    (hc : headerClass s.cfg.syncBits h ∈ [.layer1, .layer2, .layer3])
    (hr : FrameReady (acceptHeader h (s.br.pos - 32) s))
    (hfits : BodyFits (headerLayer h) (frameStart (acceptHeader h (s.br.pos - 32) s))) :
    ∃ t, exec .decodeFrame (acceptHeader h (s.br.pos - 32) s) = .next t ∧
      Ended .ok (BitVec.ofNat 32 (headerSpf h)) s t ∧
      t.hdr = { (acceptHeader h (s.br.pos - 32) s).hdr with valid := false } ∧
      t.frm = (acceptHeader h (s.br.pos - 32) s).frm := by
  have hlayer : (acceptHeader h (s.br.pos - 32) s).frm.layer.toNat = headerLayer h :=
    ((headerFrm_layer_eq s.cfg.lsfHalveL2 _ h _).mp rfl).symm
  have hi' : BrInv (acceptHeader h (s.br.pos - 32) s) := brInv_congr (s := s) rfl rfl hi
  obtain ⟨t, hexec, hended, hhdr, hfrm⟩ :=
    fittingFrame_ends hi' (heldInv_acceptHeader hc) hr (hlayer.symm ▸ hfits)
  rw [show (acceptHeader h (s.br.pos - 32) s).frm.spf.setWidth 32 = _ from headerFrm_spf ..] at hended
  exact ⟨t, hexec, ⟨hended.st, hended.cp⟩, hhdr, hfrm⟩

theorem headerLayer_of_layer1 {sb : SyncBits} {h : HeaderFields} (hc : headerClass sb h = .layer1) :
    headerLayer h = 1 := by
  rw [headerLayer, if_pos (layerCode_of_layer1 hc)]

theorem headerLayer_of_layer2 {sb : SyncBits} {h : HeaderFields} (hc : headerClass sb h = .layer2) :
    headerLayer h = 2 := by
  rw [headerLayer, layerCode_of_layer2 hc]
  rfl

/-- Settles O25: a body of zeros fits, a row is `DECODE_FRAME` with its header, and a frame whose body fits ends with
`OK`. -/
theorem layerOneAndTwoFramesEndOk : Obligations.LayerOneAndTwoFramesEndOk := by
  unfold Obligations.LayerOneAndTwoFramesEndOk
  have hcfg (s : State) : (frameStart s).cfg = s.cfg := by rw [frameStart_eq]
  have hframe : ∀ s : State, Inv s → FrameReady s →
      (s.frm.layer = 1 ∧ (layer1Plan (frameStart s)).Fits1 ∨
        s.frm.layer = 2 ∧ (layer2Plan (frameStart s)).Fits2 s.cfg (frameStart s).allocTable2.1) →
      ∃ t, exec .decodeFrame s = .next t ∧ Ended .ok (s.frm.spf.setWidth 32) s t := by
    intro s hs hr hfits
    obtain ⟨t, hexec, hended, -⟩ := fittingFrame_ends hs.br hs.held hr <| hfits.imp
      (fun ⟨hl, hf⟩ => ⟨by rw [hl]; rfl, hf⟩) fun ⟨hl, hf⟩ => ⟨by rw [hl]; rfl, (hcfg s).symm ▸ hf⟩
    exact ⟨t, hexec, hended⟩
  refine ⟨hframe, fun s hs hr hzero hend => hframe s hs hr ?_,
    fun h s u hs _ hu hr => ⟨fun hc hbody => ?_, fun hc hbody => ?_⟩⟩
  · exact hend.imp (And.imp_right (fits1_of_zeroBody hzero)) (And.imp_right (fits2_of_zeroBody _ _ hzero))
  · subst hu
    have hfits := hbody.elim id fun ⟨hzero, hend⟩ => fits1_of_zeroBody hzero hend
    have hl := headerLayer_of_layer1 hc
    obtain ⟨t, hexec, hended, hkept⟩ := fittingFrame_row_ends hs.br (by simp [hc]) hr (.inl ⟨hl, hfits⟩)
    rw [headerSpf, if_pos hl] at hended
    exact ⟨t, (exec_frameL1 hc).trans hexec, hended, hkept⟩
  · subst hu
    have hfits := hbody.elim id fun ⟨hzero, hend⟩ => fits2_of_zeroBody _ _ hzero hend
    have hl := headerLayer_of_layer2 hc
    obtain ⟨t, hexec, hended, hkept⟩ :=
      fittingFrame_row_ends hs.br (by simp [hc]) hr (.inr ⟨hl, (hcfg _).symm ▸ hfits⟩)
    rw [headerSpf, hl] at hended
    exact ⟨t, (exec_frameL2 hc).trans hexec, hended, hkept⟩

end Sys2Proof.Machine
end

section
/-! PROOFS. A silent granule-channel, the reserved selectors, and the checks of a granule-channel (R323, R335, R345, R363,
R376). -/

-- One theorem after another: threads that wait for each other exhaust the memory limit with their stacks.
set_option Elab.async false

namespace Sys2Proof.Machine

/-! ## Silence (R321, R345) -/

@[simp] theorem rd_default_zero {m n : Nat} (i : Nat) : rd (default : Vector (BitVec m) n) i = 0 := by
  by_cases hi : i < n
  · exact rd_replicate default i hi
  · exact rd_out _ i (Nat.not_lt.mp hi)

/-- Scale factors that were not read are 0. -/
theorem default_long (b : Nat) : rd (default : ScaleFactors).l b = 0 := rd_default_zero b

theorem default_short (w b : Nat) : rd (rd (default : ScaleFactors).s w) b = 0 := by
  have hrow : rd (default : ScaleFactors).s w = default := by
    by_cases hw : w < 3
    · exact rd_replicate default w hw
    · exact rd_out _ w (Nat.not_lt.mp hw)
  rw [hrow]
  exact rd_default_zero b

/-- Channel ch of t is silent, and the other channel's registers and the rest of the data path are those of s. -/
structure Silent (ch : Nat) (s t : State) : Prop where
  nz : rd t.tr.nz ch = 0
  lines : ∀ k < 576, rd (rd t.tr.is ch) k = 0
  long : ∀ b < 23, rd (rd t.tr.scf ch).l b = 0
  short : ∀ w < 3, ∀ b < 13, rd (rd (rd t.tr.scf ch).s w) b = 0
  other : ∀ c < 2, c ≠ ch → rd t.tr.nz c = rd s.tr.nz c ∧ rd t.tr.is c = rd s.tr.is c ∧ rd t.tr.scf c = rd s.tr.scf c
  tr : t.tr = { s.tr with nz := t.tr.nz, is := t.tr.is, scf := t.tr.scf, ill := t.tr.ill }

/-- `silence` writes transient registers only. -/
theorem silence_frame (ch : Nat) (s : State) : silence ch s = { s with tr := (silence ch s).tr } := rfl

theorem silence_silent {ch : Nat} (hch : ch < 2) (s : State) : Silent ch s (silence ch s) := by
  have hscf : rd (silence ch s).tr.scf ch = default := rd_wr_self _ _ _ hch
  have hlines : rd (silence ch s).tr.is ch = Vector.replicate 576 0 := rd_wr_self _ _ _ hch
  refine ⟨rd_wr_self _ _ _ hch, fun k hk => ?_, fun b _ => ?_, fun w _ b _ => ?_, fun c _ hc => ?_, rfl⟩
  · rw [hlines, rd_replicate _ _ hk]
  · rw [hscf, default_long]
  · rw [hscf, default_short]
  · exact ⟨rd_wr_other _ _ _ _ hc.symm, rd_wr_other _ _ _ _ hc.symm, rd_wr_other _ _ _ _ hc.symm⟩

/-! ## The reserved selectors (R323, R362, R376) -/

/-- Each reserved selector is the one operation that silences its channel. -/
theorem exec_reserved {m : BitVec 1} {i : Instr} (h : i ∈ [Instr.tsel4, .tsel14, .blkReserved m]) (s : State) :
    exec i s = .next (reservedSelector s) := by
  simp only [List.mem_cons, List.not_mem_nil, or_false] at h
  obtain rfl | rfl | rfl := h <;> rfl

/-- Settles O48: the three selectors are one operation, a warning and then silence. -/
theorem reservedSelectorsSilence : Obligations.ReservedSelectorsSilence := by
  unfold Obligations.ReservedSelectorsSilence
  intro m s i hi
  obtain ⟨hnz, hlines, hlong, hshort, hother, htr⟩ := silence_silent s.seq.ch.isLt (warn .huffmanTableError s)
  exact ⟨reservedSelector s, exec_reserved hi s, rfl, hnz, hlines, hlong, hshort, hother, rfl, htr, rfl⟩

/-! ## The checks (R335, R363, R376) -/

theorem blockKind_eq_reserved_iff (g : Granule) : blockKind g = .reserved ↔ g.windowSwitching = 1 ∧ g.blockType = 0 := by
  unfold blockKind
  generalize g.windowSwitching = w, g.blockType = t, g.mixedBlock = m
  decide +revert

theorem blockKind_eq_mixed_iff (g : Granule) :
    blockKind g = .mixed ↔ g.windowSwitching = 1 ∧ g.blockType = 2 ∧ g.mixedBlock = 1 := by
  unfold blockKind
  generalize g.windowSwitching = w, g.blockType = t, g.mixedBlock = m
  decide +revert

/-- The bounds of R363 are where the regions end. -/
theorem regionBounds_eq {c : Config} {rate r1 r2 : Nat} {g : Granule} (h : RegionEnds c rate g r1 r2) :
    regionBounds c rate g = (r1, r2) := by
  obtain ⟨rfl, rfl⟩ := h
  unfold regionBounds
  by_cases hb : g.blockType = 2 <;> simp only [hb, if_true, if_false]

/-- Test 4 of R376: a region with a line names codebook 4 or 14. -/
theorem reservedSelected_iff (g : Granule) (r1 r2 : Nat) :
    reservedSelected g (r1, r2) = true ↔
      (0 < r1 ∧ rd g.tableSelect 0 ∈ [(4 : BitVec 5), 14]) ∨ (r1 < r2 ∧ rd g.tableSelect 1 ∈ [(4 : BitVec 5), 14]) ∨
        (r2 < 2 * g.bigValues.toNat ∧ rd g.tableSelect 2 ∈ [(4 : BitVec 5), 14]) := by
  simp [reservedSelected, or_assoc]

/-- Settles O31: the tests of `granuleChecks` in terms of the fields, and the later five join to one. -/
theorem granuleChecksInOrder : Obligations.GranuleChecksInOrder := by
  unfold Obligations.GranuleChecksInOrder
  rintro gr ch p s g lines r1 r2 rfl rfl hends
  unfold granuleChecks
  simp only [regionBounds_eq hends, reservedSelected_iff, blockKind_eq_reserved_iff, blockKind_eq_mixed_iff, and_assoc,
    ite_or]

end Sys2Proof.Machine
end

section
/-! PROOFS. Reordering and the block kinds: butterflies, transforms, windows and the overlap (R323, R415, R418 to R427). -/

-- One theorem after another: threads that wait for each other exhaust the memory limit with their stacks.
set_option Elab.async false

namespace Sys2Proof.Machine

/-! ## Reordering (R415) -/

/-- Boundaries that rise are in order. -/
theorem ascending_getD_le {b : List Nat} (hb : Ascending b) {i j : Nat} (hij : i ≤ j) (hj : j < b.length) :
    b.getD i 0 ≤ b.getD j 0 := by
  obtain rfl | hlt := Nat.eq_or_lt_of_le hij
  · exact Nat.le_refl _
  · simp only [List.getD_eq_getElem?_getD, List.getElem?_eq_getElem hj, List.getElem?_eq_getElem (Nat.lt_trans hlt hj),
      Option.getD_some]
    exact Nat.le_of_lt (List.pairwise_iff_getElem.mp hb i j _ _ hlt)

section
variable {c : Config} {rate first sfb w f : Nat} (hb : Ascending (sfbShort c rate))

theorem length_sfbShort : (sfbShort c rate).length = 14 := by simp [sfbShort]

/-- A boundary of the short table in lines. -/
theorem getD_tripled (i : Nat) : ((sfbShort c rate).map (3 * ·)).getD i 0 = 3 * (sfbShort c rate).getD i 0 :=
  List.getD_map _ 0 (3 * ·)

include hb

/-- Line 3*(s + f) + w of a band takes line 3*s + w*wd + f (R415). -/
theorem reorderSource_of_band (hf : first ≤ sfb) (hs : sfb < 13) (hw : w < 3)
    (hfreq : f < (sfbShort c rate).getD (sfb + 1) 0 - (sfbShort c rate).getD sfb 0) :
    reorderSource c rate first (3 * ((sfbShort c rate).getD sfb 0 + f) + w) =
      3 * (sfbShort c rate).getD sfb 0 +
        w * ((sfbShort c rate).getD (sfb + 1) 0 - (sfbShort c rate).getD sfb 0) + f := by
  have hband : bandOf ((sfbShort c rate).map (3 * ·)) first 13 (3 * ((sfbShort c rate).getD sfb 0 + f) + w) = some sfb :=
    bandOf_ascending (ascending_scaled hb (by decide)) (by rw [List.length_map, length_sfbShort]; decide) hf hs
      (by rw [getD_tripled]; omega) (by rw [getD_tripled]; omega)
  have hline : 3 * ((sfbShort c rate).getD sfb 0 + f) + w - 3 * (sfbShort c rate).getD sfb 0 = 3 * f + w := by omega
  have hwindow : (3 * f + w) % 3 = w := by omega
  have hfrequency : (3 * f + w) / 3 = f := by omega
  simp only [reorderSource, hband, hline, hwindow, hfrequency]

/-- A line below the first band that is reordered stays. -/
theorem reorderSource_below {k : Nat} (hk : k < 3 * (sfbShort c rate).getD first 0) :
    reorderSource c rate first k = k := by
  have hnone : bandOf ((sfbShort c rate).map (3 * ·)) first 13 k = none := by
    refine bandOf_none.mpr fun sfb hlo hhi hle => ?_
    have hmono := ascending_getD_le hb hlo (by rw [length_sfbShort]; omega)
    rw [getD_tripled] at hle
    omega
  simp only [reorderSource, hnone]

/-- A band of a table that ends at 192 or before has its lines among the 576. -/
theorem bandLine_lt (hend : (sfbShort c rate).getD 13 0 ≤ 192) (hs : sfb < 13) (hw : w < 3)
    (hfreq : f < (sfbShort c rate).getD (sfb + 1) 0 - (sfbShort c rate).getD sfb 0) :
    3 * ((sfbShort c rate).getD sfb 0 + f) + w < 576 := by
  have hmono := ascending_getD_le hb (i := sfb + 1) (j := 13) (by omega) (by rw [length_sfbShort]; decide)
  omega

end

/-- The printed band tables rise, the short ones from 0 to 192 and the long ones from 0 to 576 (R343). -/
theorem printed_bands :
    ∀ rate ∈ [44100, 48000, 32000, 22050, 24000, 16000, 11025, 12000, 8000],
      Ascending (sfbShort Config.default rate) ∧ (sfbShort Config.default rate).getD 0 1 = 0 ∧
      (sfbShort Config.default rate).getD 13 0 = 192 ∧ Ascending (sfbLong Config.default rate) ∧
      (sfbLong Config.default rate).getD 0 1 = 0 ∧ (sfbLong Config.default rate).getD 22 0 = 576 := by
  unfold Ascending
  decide

/-- Settles O60: the band of a line gives its source, and in a mixed block lines below band 3 have none. -/
theorem reorderMovesWindowLines : Obligations.ReorderMovesWindowLines := by
  unfold Obligations.ReorderMovesWindowLines
  refine ⟨fun c rate x hb hend sfb hs w hw f hf => ?_, printed_bands⟩
  have hk := bandLine_lt hb hend hs hw hf
  simp only [reordered, rd_tab _ _ hk]
  refine ⟨by rw [reorderSource_of_band hb (Nat.zero_le _) hs hw hf], ?_⟩
  by_cases hlow : sfb < 3
  · have hmono := ascending_getD_le hb (i := sfb + 1) (j := 3) hlow (by rw [length_sfbShort]; decide)
    rw [if_pos hlow, reorderSource_below hb (by omega)]
  · rw [if_neg hlow, reorderSource_of_band hb (Nat.not_lt.mp hlow) hs hw hf]

/-- A kind without short lines is not reordered. -/
theorem reordered_long {kind : BlockKind} (hs : kind ≠ .short) (hm : kind ≠ .mixed) (c : Config) (rate : Nat)
    (x : Vector Sample 576) : reordered c rate kind x = x := by
  cases kind with
  | short => exact absurd rfl hs
  | mixed => exact absurd rfl hm
  | normal | start | stop | reserved => rfl

/-! ## Alias reduction (R418, R419) -/

section
variable {num : NumSystem} {kind : BlockKind} {x : Vector Sample 576} {sb i : Nat}

/-- `CS[i]` and `CA[i]` are the coefficients of the model. -/
theorem rotation_eq (num : NumSystem) (i : Nat) : rotation num i = (coefCS num i, coefCA num i) := rfl

theorem lastBoundary_le (kind : BlockKind) : kind.lastBoundary ≤ 31 := by cases kind <;> decide

section
variable (hsb : 1 ≤ sb) (hlast : sb ≤ kind.lastBoundary) (hi : i < 8)
include hsb hlast hi

/-- The line below a boundary after its butterfly (R418). -/
theorem aliasReduced_below :
    rd (aliasReduced num kind x) (18 * sb - 1 - i) =
      Num.sub num (Num.mul num (rd x (18 * sb - 1 - i)) (rotation num i).1)
        (Num.mul num (rd x (18 * sb + i)) (rotation num i).2) := by
  have hle := lastBoundary_le kind
  have hband : (18 * sb - 1 - i) / 18 = sb - 1 := by omega
  have hplace : (18 * sb - 1 - i) % 18 = 17 - i := by omega
  have hnot : ¬(17 - i < 8 ∧ 1 ≤ sb - 1 ∧ sb - 1 ≤ kind.lastBoundary) := by omega
  have hin : 10 ≤ 17 - i ∧ sb ≤ kind.lastBoundary := by omega
  have hback : 17 - (17 - i) = i := by omega
  rw [aliasReduced, rd_tab _ _ (by omega)]
  simp only [aliasLine, hband, hplace, if_neg hnot, hback, Nat.sub_add_cancel hsb, if_pos hin, rotation_eq]

/-- The line above a boundary after its butterfly (R418). -/
theorem aliasReduced_above :
    rd (aliasReduced num kind x) (18 * sb + i) =
      Num.add num (Num.mul num (rd x (18 * sb + i)) (rotation num i).1)
        (Num.mul num (rd x (18 * sb - 1 - i)) (rotation num i).2) := by
  have hle := lastBoundary_le kind
  have hband : (18 * sb + i) / 18 = sb := by omega
  have hplace : (18 * sb + i) % 18 = i := by omega
  rw [aliasReduced, rd_tab _ _ (by omega)]
  simp only [aliasLine, hband, hplace, if_pos (And.intro hi (And.intro hsb hlast)), rotation_eq]

end

/-- A line that is not within eight lines of a boundary of its kind stays. -/
theorem aliasReduced_other {k : Nat} (hk : k < 576)
    (hfar : ∀ sb, 1 ≤ sb → sb ≤ kind.lastBoundary → k + 8 < 18 * sb ∨ 18 * sb + 8 ≤ k) :
    rd (aliasReduced num kind x) k = rd x k := by
  have habove : ¬(k % 18 < 8 ∧ 1 ≤ k / 18 ∧ k / 18 ≤ kind.lastBoundary) := fun ⟨h8, h1, hl⟩ => by
    have := hfar (k / 18) h1 hl
    omega
  have hbelow : ¬(10 ≤ k % 18 ∧ k / 18 + 1 ≤ kind.lastBoundary) := fun ⟨h10, hl⟩ => by
    have := hfar (k / 18 + 1) (by omega) hl
    omega
  rw [aliasReduced, rd_tab _ _ hk]
  simp only [aliasLine, if_neg habove, if_neg hbelow]

end

/-! ## The transforms and their windows (R422 to R426) -/

theorem sineWindow_eq (num : NumSystem) (d i : Nat) : sineWindow num d i = sineAt num d i := rfl

theorem winLong_eq (num : NumSystem) (bt i : Nat) : winLong num bt i = windowAt num bt i := by
  unfold winLong windowAt
  simp only [sineWindow_eq]
  grind

/-- The three short transforms meet in four parts of the 36 values (R425, R426). -/
theorem rd_transformShort (num : NumSystem) (x : Nat → Sample) {i : Nat} (hi : i < 36) :
    rd (transformShort num x) i = transformValue num 2 x i := by
  have hvalue : transformValue num 2 x i =
      if i < 6 ∨ 30 ≤ i then Num.zero
      else if i < 12 then Num.add num Num.zero (shortValue num x 0 (i - 6))
      else if i < 18 then
        Num.add num (Num.add num Num.zero (shortValue num x 0 (i - 6))) (shortValue num x 1 (i - 12))
      else if i < 24 then
        Num.add num (Num.add num Num.zero (shortValue num x 1 (i - 12))) (shortValue num x 2 (i - 18))
      else Num.add num Num.zero (shortValue num x 2 (i - 18)) := rfl
  rw [transformShort, rd_tab _ _ hi, hvalue]
  simp only [List.range_succ, List.range_zero, List.nil_append, List.cons_append, List.foldl_cons, List.foldl_nil,
    Nat.sub_sub]
  grind

/-- A value of a subband's transform, windowed by its block type. -/
theorem rd_transformed (num : NumSystem) (kind : BlockKind) (x : Vector Sample 576) (sb : Nat) {i : Nat} (hi : i < 36) :
    rd (transformed num kind x sb) i =
      transformValue num (kind.subbandType sb) (fun k => rd x (18 * sb + k)) i := by
  unfold transformed
  by_cases h2 : kind.subbandType sb = 2
  · simp only [h2, if_true]
    exact rd_transformShort num _ hi
  · simp only [if_neg h2]
    rw [transformLong, rd_tab _ _ hi, winLong_eq, transformValue, if_pos h2]
    rfl

/-! ## The hybrid stage of one channel (R321) -/

section
variable {kind : BlockKind} {ch : Nat} {s : State}

/-- `hybrid` writes the lines, the subband samples and the tail. -/
theorem hybrid_frame (kind : BlockKind) (ch : Nat) (s : State) :
    hybrid kind ch s = { s with
      tr := { s.tr with xr := (hybrid kind ch s).tr.xr, hy := (hybrid kind ch s).tr.hy }, ov := (hybrid kind ch s).ov } :=
  rfl

theorem hybrid_other {c : Nat} (h : c ≠ ch) :
    rd (hybrid kind ch s).tr.xr c = rd s.tr.xr c ∧ rd (hybrid kind ch s).tr.hy c = rd s.tr.hy c ∧
      rd (hybrid kind ch s).ov c = rd s.ov c :=
  ⟨rd_wr_other _ _ _ _ h.symm, rd_wr_other _ _ _ _ h.symm, rd_wr_other _ _ _ _ h.symm⟩

variable (hch : ch < 2)
include hch

theorem hybrid_lines :
    rd (hybrid kind ch s).tr.xr ch =
      aliasReduced s.cfg.num kind (reordered s.cfg s.frm.rate.toNat kind (rd s.tr.xr ch)) := rd_wr_self _ _ _ hch

variable {sb i : Nat} (hsb : sb < 32) (hi : i < 18)
include hsb hi

/-- The first half of a subband is added to the old tail, then its odd samples change sign (R427). -/
theorem hybrid_samples :
    rd (rd (rd (hybrid kind ch s).tr.hy ch) sb) i =
      freqInvert sb i (Num.add s.cfg.num
        (transformValue s.cfg.num (kind.subbandType sb) (fun k => rd (rd (hybrid kind ch s).tr.xr ch) (18 * sb + k)) i)
        (rd (rd (rd s.ov ch) sb) i)) := by
  rw [hybrid_lines hch]
  simp only [hybrid, State.withOv_fields, State.withTr_fields, rd_wr_self _ _ _ hch, rd_tab _ _ hsb, rd_tab _ _ hi]
  rw [rd_transformed _ _ _ _ (by omega)]

/-- The second half of a subband becomes the new tail (R426). -/
theorem hybrid_tail :
    rd (rd (rd (hybrid kind ch s).ov ch) sb) i =
      transformValue s.cfg.num (kind.subbandType sb) (fun k => rd (rd (hybrid kind ch s).tr.xr ch) (18 * sb + k))
        (18 + i) := by
  rw [hybrid_lines hch]
  simp only [hybrid, State.withOv_fields, rd_wr_self _ _ _ hch, rd_tab _ _ hsb, rd_tab _ _ hi]
  rw [rd_transformed _ _ _ _ (by omega)]

end

/-- Each block kind's instruction runs the hybrid stage with the block type and the boundaries of its kind (R323). -/
theorem exec_blockKind {m : BitVec 1} {row : BlockKind × Instr × Nat × Nat}
    (h : row ∈ [(BlockKind.normal, Instr.blkNormal, 0, 31), (.start, .blkStart m, 1, 31), (.short, .blkShort, 2, 0),
      (.mixed, .blkMixed, 2, 1), (.stop, .blkStop m, 3, 31)]) (s : State) :
    exec row.2.1 s = .next (hybrid row.1 s.seqCh s) ∧ row.2.2.1 = row.1.blockType ∧ row.2.2.2 = row.1.lastBoundary := by
  simp only [List.mem_cons, List.not_mem_nil, or_false] at h
  obtain rfl | rfl | rfl | rfl | rfl := h <;> exact ⟨rfl, rfl, rfl⟩

/-- Settles O58: the stages of `hybrid`, one lemma for each register that it writes. -/
theorem blockKindsTransformTheChannel : Obligations.BlockKindsTransformTheChannel := by
  unfold Obligations.BlockKindsTransformTheChannel
  intro m s row hrow
  obtain ⟨hexec, htype, hlast⟩ := exec_blockKind hrow s
  have hch : s.seqCh < 2 := s.seq.ch.isLt
  rw [hlast, htype]
  refine ⟨_, _, hexec, rfl, rfl, fun hs hm => reordered_long hs hm .., fun sb h1 hl i hi lo hi' hlo hhi => ?_,
    fun k hk hfar => ?_, fun sb hsb bt out hbt hout i hi => ?_, fun c _ hc => hybrid_other hc, rfl, hybrid_frame ..⟩
  · subst hlo hhi
    rw [hybrid_lines hch]
    exact ⟨aliasReduced_below h1 hl hi, aliasReduced_above h1 hl hi⟩
  · rw [hybrid_lines hch]
    exact aliasReduced_other hk hfar
  · have hsub : row.1.subbandType sb = bt := hbt.symm
    rw [hout, hout, ← hsub, hybrid_tail hch hsb hi, hybrid_samples hch hsb hi]
    exact ⟨rfl, rfl⟩

end Sys2Proof.Machine
end

section
/-! PROOFS. Reading scale factors along a plan: which bits, into which places, and what stands in a place afterwards (R336
to R345). -/

-- One theorem after another: threads that wait for each other exhaust the memory limit with their stacks.
set_option Elab.async false

namespace Sys2Proof.Machine

/-! ## Lists and loops -/

/-- Two updates of one element are one. -/
theorem upd_upd {α : Type} [Inhabited α] {n : Nat} (v : Vector α n) (i : Nat) (f g : α → α) :
    upd (upd v i f) i g = upd v i fun x => g (f x) := by
  refine vec_ext fun j hj => ?_
  simp only [rd_upd]
  by_cases h : i = j
  · subst h; simp only [hj, and_self, if_true]
  · simp only [h, false_and, if_false]

/-- An update that changes nothing. -/
theorem upd_self {α : Type} [Inhabited α] {n : Nat} (v : Vector α n) (i : Nat) : upd v i (fun x => x) = v := by
  refine vec_ext fun j _ => ?_
  rw [rd_upd]
  split
  · rename_i h; rw [h.1]
  · rfl

/-- Two loops in a row are one. -/
theorem loop_add {σ : Type} (m n : Nat) (f : Nat → σ → σ) (s : σ) :
    loop (m + n) f s = loop n (fun i => f (m + i)) (loop m f s) := by
  induction n with
  | zero => rfl
  | succ n ih => rw [← Nat.add_assoc, loop_succ, loop_succ, ih]

theorem loop_congr {σ : Type} {n : Nat} {f g : Nat → σ → σ} {s t : σ} (h : ∀ i < n, f i = g i) (hst : s = t) :
    loop n f s = loop n g t := by
  subst hst
  induction n with
  | zero => rfl
  | succ n ih => rw [loop_succ, loop_succ, ih fun i hi => h i (Nat.lt_succ_of_lt hi), h n (Nat.lt_succ_self n)]

/-- A list without some elements adds up as the list in which they are 0. -/
theorem sum_map_filter {α : Type} (p : α → Prop) [DecidablePred p] (f : α → Nat) (l : List α) :
    ((l.filter p).map f).sum = (l.map fun x => if p x then f x else 0).sum := by
  induction l with
  | nil => rfl
  | cons x l ih => by_cases hx : p x <;> simp [hx, ih]

/-! The sum of lengths that are a up to place m and b from there on. -/

theorem sum_lengths_low {m k : Nat} (a b : Nat) (h : k ≤ m) :
    ((List.range k).map fun j => if j < m then a else b).sum = a * k := by
  induction k with
  | zero => rfl
  | succ k ih =>
    rw [List.range_succ, List.map_append, List.sum_append, ih (by omega), Nat.mul_succ]
    simp [Nat.lt_of_succ_le h]

theorem sum_lengths_high {m k : Nat} (a b : Nat) (h : m ≤ k) :
    ((List.range k).map fun j => if j < m then a else b).sum = m * a + b * (k - m) := by
  induction k, h using Nat.le_induction with
  | base => rw [sum_lengths_low a b (Nat.le_refl m), Nat.sub_self, Nat.mul_zero, Nat.add_zero, Nat.mul_comm]
  | succ k hk ih =>
    rw [List.range_succ, List.map_append, List.sum_append, ih, Nat.succ_sub hk, Nat.mul_succ, ← Nat.add_assoc]
    simp [Nat.not_lt.mpr hk]

/-! ## Places of scale factors -/

/-- Where a scale factor goes: a long band, or a window and a short band, as `lsfPlace` names it. -/
abbrev FactorPlace := Sum Nat (Nat × Nat)

/-- The place is one of the registers. -/
def FactorPlace.Legal : FactorPlace → Prop
  | .inl b => b < 23
  | .inr (w, b) => w < 3 ∧ b < 13

/-- The scale factor at a place. -/
def ScaleFactors.at (f : ScaleFactors) : FactorPlace → BitVec 5
  | .inl b => rd f.l b
  | .inr (w, b) => rd (rd f.s w) b

/-- The scale factors with one of them replaced. -/
def ScaleFactors.put (f : ScaleFactors) : FactorPlace → BitVec 5 → ScaleFactors
  | .inl b, v => { f with l := wr f.l b v }
  | .inr (w, b), v => { f with s := upd f.s w fun r => wr r b v }

theorem ScaleFactors.at_put {f : ScaleFactors} {i : FactorPlace} (hi : i.Legal) (v : BitVec 5) (j : FactorPlace) :
    (f.put i v).at j = if i = j then v else f.at j := by
  match i, j, hi with
  | .inl b, .inl c, hb =>
    simp only [put, ScaleFactors.at, rd_wr, Sum.inl.injEq]
    by_cases h : b = c
    · subst h; rw [if_pos ⟨rfl, hb⟩, if_pos rfl]
    · rw [if_neg fun k => h k.1, if_neg h]
  | .inl _, .inr _, _ => rfl
  | .inr _, .inl _, _ => rfl
  | .inr (w, b), .inr (x, c), ⟨hw, hb⟩ =>
    simp only [put, ScaleFactors.at, Sum.inr.injEq, Prod.mk.injEq]
    exact rd_upd_upd f.s hw hb (fun _ => v) x c

/-! ## Plans -/

/-- What is read in which order: so many entries, each with its length and its place; an entry without a place is not
sent. -/
structure FactorPlan where
  count : Nat
  len : Nat → Nat
  place : Nat → Option FactorPlace

namespace FactorPlan

variable (P : FactorPlan)

/-- The places are registers, no two entries have one place, and what is not sent takes no bits. -/
structure Legal : Prop where
  place : ∀ k < P.count, ∀ i, P.place k = some i → i.Legal
  inj : ∀ j < P.count, ∀ k < P.count, ∀ i, P.place j = some i → P.place k = some i → j = k
  unsent : ∀ k < P.count, P.place k = none → P.len k = 0

/-- The bits before entry k. -/
def offset (k : Nat) : Nat := ((List.range k).map P.len).sum

/-- A value goes to its place, if there is one. -/
def store (v : BitVec 5) : Option FactorPlace → ScaleFactors → ScaleFactors
  | some i, f => f.put i v
  | none, f => f

/-- The scale factors after the first k entries, with entry j's value `val j`. -/
def write (val : Nat → BitVec 5) (k : Nat) (f : ScaleFactors) : ScaleFactors :=
  loop k (fun j => store (val j) (P.place j)) f

@[simp] theorem offset_zero : P.offset 0 = 0 := rfl

theorem offset_succ (k : Nat) : P.offset (k + 1) = P.offset k + P.len k := by
  simp [offset, List.range_succ]

theorem offset_mono {j k : Nat} (h : j ≤ k) : P.offset j ≤ P.offset k := by
  induction h with
  | refl => exact Nat.le_refl _
  | step _ ih => rw [offset_succ]; omega

theorem write_succ (val : Nat → BitVec 5) (k : Nat) (f : ScaleFactors) :
    P.write val (k + 1) f = store (val k) (P.place k) (P.write val k f) := loop_succ ..

variable {P}

/-- A place that none of the entries has keeps its value. -/
theorem at_write_other (hP : P.Legal) {val : Nat → BitVec 5} {k : Nat} (hk : k ≤ P.count) {f : ScaleFactors} {i : FactorPlace}
    (h : ∀ j < k, P.place j ≠ some i) : (P.write val k f).at i = f.at i := by
  induction k with
  | zero => rfl
  | succ k ih =>
    rw [write_succ]
    cases hp : P.place k with
    | none => exact ih (by omega) fun j hj => h j (by omega)
    | some p =>
      rw [store, ScaleFactors.at_put (hP.place k (by omega) p hp), if_neg fun he => h k (by omega) (hp.trans (congrArg some he))]
      exact ih (by omega) fun j hj => h j (by omega)

/-- The place of an entry holds its value. -/
theorem at_write (hP : P.Legal) {val : Nat → BitVec 5} {j : Nat} {f : ScaleFactors} {i : FactorPlace} (hj : j < P.count)
    (hi : P.place j = some i) : (P.write val P.count f).at i = val j := by
  have key : ∀ k ≤ P.count, j < k → (P.write val k f).at i = val j := by
    intro k
    induction k with
    | zero => intro _ h; omega
    | succ k ih =>
      intro hk hjk
      rw [write_succ]
      obtain hlt | rfl := Nat.lt_succ_iff_lt_or_eq.mp hjk
      · cases hp : P.place k with
        | none => exact ih (by omega) hlt
        | some p =>
          have hne : p ≠ i := fun he => Nat.ne_of_lt hlt (hP.inj j hj k hk i hi (hp.trans (congrArg some he)))
          rw [store, ScaleFactors.at_put (hP.place k hk p hp), if_neg hne]
          exact ih (by omega) hlt
      · rw [hi, store, ScaleFactors.at_put (hP.place j hj i hi), if_pos rfl]
  exact key P.count (Nat.le_refl _) hj

theorem write_congr {val val' : Nat → BitVec 5} {k : Nat} (h : ∀ j < k, val j = val' j) (f : ScaleFactors) :
    P.write val k f = P.write val' k f := loop_congr (fun j hj => by rw [h j hj]) rfl

end FactorPlan

/-! ## Reading along a plan -/

theorem FactorFrame.refl (ch : Nat) (s : State) : FactorFrame ch s s := ⟨rfl, fun _ _ _ => rfl, rfl⟩

theorem FactorFrame.trans {ch : Nat} {s t u : State} (h : FactorFrame ch s t) (k : FactorFrame ch t u) :
    FactorFrame ch s u := by
  refine ⟨?_, fun c hc hne => (k.other c hc hne).trans (h.other c hc hne), ?_⟩
  · rw [k.frame, h.frame]
  · rw [k.md, h.md]

/-- Store a scale factor, and with `ill` the illegal position of its length (R341). -/
def storeFactor (ill : Bool) (ch len : Nat) (i : FactorPlace) (v : Nat) (s : State) : State :=
  let t := setFactors ch (fun f => f.put i (BitVec.ofNat 5 v)) s
  if ill then setIllegal i (2 ^ len - 1) t else t

theorem setLong_eq (ch b v : Nat) : setLong ch b v = setFactors ch fun f => f.put (.inl b) (BitVec.ofNat 5 v) := rfl

theorem setShort_eq (ch w b v : Nat) : setShort ch w b v = setFactors ch fun f => f.put (.inr (w, b)) (BitVec.ofNat 5 v) :=
  rfl

theorem setIllegal_eq (i : FactorPlace) (v : Nat) (s : State) :
    setIllegal i v s = s.withTr { s.tr with ill := s.tr.ill.put i (BitVec.ofNat 5 v) } := by
  cases i <;> rfl

theorem storeLsf_eq (k : BlockKind) (ch i len : Nat) : storeLsf k ch i len = storeFactor (ch = 1) ch len (lsfPlace k i) := by
  funext v s
  unfold storeLsf storeFactor
  cases lsfPlace k i <;> simp [setLong_eq, setShort_eq]

/-- The registers that reading scale factors writes. -/
def State.withFactors (s : State) (scf : Vector ScaleFactors 2) (ill : ScaleFactors) (md : MainData) : State :=
  s.withTr { s.tr with scf := scf, ill := ill, md := md }

/-- Read an entry, if it is sent. -/
def readEntry (ill : Bool) (ch len : Nat) : Option FactorPlace → State → State
  | some i, s => readInto len (storeFactor ill ch len i) s
  | none, s => s

/-- An entry that is sent is read from the cursor on, and stored. -/
theorem readEntry_some (ill : Bool) (ch len : Nat) (i : FactorPlace) (s : State) :
    readEntry ill ch len (some i) s = s.withFactors
      (upd s.tr.scf ch fun f => f.put i (factorAt s s.tr.md.pos.toNat len))
      (if ill then s.tr.ill.put i (BitVec.ofNat 5 (2 ^ len - 1)) else s.tr.ill)
      { s.tr.md with pos := BitVec.ofNat 32 (s.tr.md.pos.toNat + len) } := by
  cases ill
  · rfl
  · simp only [readEntry, readInto, mdBits, storeFactor, setIllegal_eq, if_true]
    rfl

namespace FactorPlan

variable (P : FactorPlan)

/-- The entries in order. -/
def read (ill : Bool) (ch : Nat) (s : State) : State :=
  loop P.count (fun k => readEntry ill ch (P.len k) (P.place k)) s

/-- The value of entry k, off the window's bits from the cursor of s on, and its illegal position. -/
def value (s : State) (k : Nat) : BitVec 5 := factorAt s (s.tr.md.pos.toNat + P.offset k) (P.len k)
def illegal (k : Nat) : BitVec 5 := BitVec.ofNat 5 (2 ^ P.len k - 1)

/-- The state in which the first k entries are read. -/
def after (ill : Bool) (ch k : Nat) (s : State) : State :=
  s.withFactors (upd s.tr.scf ch (P.write (P.value s) k)) (if ill then P.write P.illegal k s.tr.ill else s.tr.ill)
    { s.tr.md with pos := BitVec.ofNat 32 (s.tr.md.pos.toNat + P.offset k) }

variable {P} {ill : Bool} {ch : Nat} {s : State}

theorem after_zero : P.after ill ch 0 s = s := by
  have hscf : upd s.tr.scf ch (P.write (P.value s) 0) = s.tr.scf := upd_self ..
  have hpos : BitVec.ofNat 32 (s.tr.md.pos.toNat + P.offset 0) = s.tr.md.pos := by simp
  have hill : (if ill then P.write P.illegal 0 s.tr.ill else s.tr.ill) = s.tr.ill := by split <;> rfl
  unfold after
  rw [hscf, hpos, hill]
  rfl

/-- One more entry. -/
theorem readEntry_after (hP : P.Legal) {k : Nat} (hk : k < P.count)
    (hpos : s.tr.md.pos.toNat + P.offset k < 2 ^ 32) :
    readEntry ill ch (P.len k) (P.place k) (P.after ill ch k s) = P.after ill ch (k + 1) s := by
  have hscf (val : Nat → BitVec 5) : P.write val (k + 1) = fun f => store (val k) (P.place k) (P.write val k f) := by
    funext f; exact write_succ ..
  have hcur : (P.after ill ch k s).tr.md.pos.toNat = s.tr.md.pos.toNat + P.offset k := Nat.mod_eq_of_lt hpos
  cases hp : P.place k with
  | none =>
    rw [readEntry, after, after, hscf, hscf, hp, offset_succ, hP.unsent k hk hp]
    rfl
  | some i =>
    have hvalue : factorAt (P.after ill ch k s) (s.tr.md.pos.toNat + P.offset k) (P.len k) = P.value s k := rfl
    have hscf' : (P.after ill ch k s).tr.scf = upd s.tr.scf ch (P.write (P.value s) k) := rfl
    rw [readEntry_some, hcur, hvalue, hscf', upd_upd]
    unfold after
    rw [hscf, hscf, hp, offset_succ, ← Nat.add_assoc]
    cases ill <;> rfl

/-- Reading along a plan writes each place once. -/
theorem read_eq (hP : P.Legal) (hpos : s.tr.md.pos.toNat + P.offset P.count < 2 ^ 32) :
    P.read ill ch s = P.after ill ch P.count s :=
  loop_induct (P := fun k t => t = P.after ill ch k s) after_zero.symm fun k t hk ht => by
    have hmono := P.offset_mono (Nat.le_of_lt hk)
    rw [ht]
    exact readEntry_after hP hk (by omega)

theorem readEntry_frame (ill : Bool) (ch len : Nat) (o : Option FactorPlace) (s : State) :
    FactorFrame ch s (readEntry ill ch len o s) ∧ (readEntry ill ch len o s).tr.si = s.tr.si := by
  cases o with
  | none => exact ⟨.refl ch s, rfl⟩
  | some i =>
    rw [readEntry_some]
    exact ⟨⟨rfl, fun c _ hc => rd_wr_other _ _ _ _ hc.symm, rfl⟩, rfl⟩

/-- Reading along a plan changes scale factors, illegal positions and the cursor, wherever the cursor stands. -/
theorem read_frame (ill : Bool) (ch : Nat) (s : State) :
    FactorFrame ch s (P.read ill ch s) ∧ (P.read ill ch s).tr.si = s.tr.si :=
  loop_induct (P := fun _ t => FactorFrame ch s t ∧ t.tr.si = s.tr.si) ⟨.refl ch s, rfl⟩ fun k t _ ⟨hframe, hsi⟩ =>
    have hentry := readEntry_frame ill ch (P.len k) (P.place k) t
    ⟨hframe.trans hentry.1, hentry.2.trans hsi⟩

/-! What stands where afterwards. -/

theorem after_scf (hch : ch < 2) (k : Nat) :
    rd (P.after ill ch k s).tr.scf ch = P.write (P.value s) k (rd s.tr.scf ch) :=
  (rd_upd ..).trans (if_pos ⟨rfl, hch⟩)

theorem after_ill (k : Nat) : (P.after true ch k s).tr.ill = P.write P.illegal k s.tr.ill := rfl

theorem after_legal (k : Nat) : (P.after false ch k s).tr.ill = s.tr.ill := rfl

theorem after_md (k : Nat) :
    (P.after ill ch k s).tr.md = { s.tr.md with pos := BitVec.ofNat 32 (s.tr.md.pos.toNat + P.offset k) } := rfl

end FactorPlan

/-! ## The plan of a granule-channel in MPEG-1 (R337, R338) -/

/-- The entries of a granule-channel in MPEG-1. A long block has all its bands; those above 20 take no bits, and one that
is not sent is left out. -/
def planV1 (slen : Nat × Nat) (sent : Nat → Bool) : BlockKind → FactorPlan
  | .short =>
    { count := 36
      len := fun k => if k < 18 then slen.1 else slen.2
      place := fun k => some (.inr (k % 3, k / 3)) }
  | .mixed =>
    { count := 35
      len := fun k => if k < 17 then slen.1 else slen.2
      place := fun k => some (if k < 8 then .inl k else .inr ((k - 8) % 3, 3 + (k - 8) / 3)) }
  | .normal | .start | .stop | .reserved =>
    { count := 23
      len := fun k => if k < 21 ∧ sent k = true then (if k < 11 then slen.1 else slen.2) else 0
      place := fun k => if k < 21 ∧ sent k = false then none else some (.inl k) }

/-- The long bands that granule gr sends (R337). -/
def sentBand (gr : Nat) (scfsi : Vector (BitVec 1) 4) (sfb : Nat) : Bool := gr = 0 ∨ rd scfsi (scfsiGroup sfb) = 0

theorem planV1_long_place {slen : Nat × Nat} {sent : Nat → Bool} {k : Nat} {i : FactorPlace} :
    (planV1 slen sent .normal).place k = some i ↔ .inl k = i ∧ (k < 21 → sent k = true) := by
  by_cases h : k < 21 ∧ sent k = false <;> simp_all [planV1]

theorem planV1_legal (slen : Nat × Nat) (sent : Nat → Bool) (kind : BlockKind) : (planV1 slen sent kind).Legal := by
  have hlong : (planV1 slen sent .normal).Legal := by
    refine ⟨fun k hk i hi => ?_, fun j _ k _ i hj hi => ?_, fun k _ hk => ?_⟩
    · obtain ⟨rfl, -⟩ := planV1_long_place.mp hi
      exact hk
    · have hjk := (planV1_long_place.mp hj).1.trans (planV1_long_place.mp hi).1.symm
      exact Sum.inl.inj hjk
    · simp_all [planV1]
  cases kind with
  | normal | start | stop | reserved => exact hlong
  | short =>
    refine ⟨fun k (hk : k < 36) i hi => ?_, fun j _ k _ i hj hi => ?_, fun k _ hk => nomatch hk⟩
    · obtain rfl := Option.some.inj hi
      exact ⟨by omega, by omega⟩
    · have hjk := Sum.inr.inj (Option.some.inj (hj.trans hi.symm))
      rw [Prod.mk.injEq] at hjk
      omega
  | mixed =>
    refine ⟨fun k (hk : k < 35) i hi => ?_, fun j _ k _ i hj hi => ?_, fun k _ hk => nomatch hk⟩
    · obtain rfl := Option.some.inj hi
      split
      · exact (by omega : k < 23)
      · exact ⟨by omega, by omega⟩
    · have hjk := Option.some.inj (hj.trans hi.symm)
      split_ifs at hjk with h1 h2 h2
      · exact Sum.inl.inj hjk
      · have h := Sum.inr.inj hjk
        rw [Prod.mk.injEq] at h
        omega

/-- The kinds without short bands have one plan. -/
theorem planV1_long {kind : BlockKind} (hs : kind ≠ .short) (hm : kind ≠ .mixed) (slen : Nat × Nat) (sent : Nat → Bool) :
    planV1 slen sent kind = planV1 slen sent .normal := by
  cases kind with
  | short => exact absurd rfl hs
  | mixed => exact absurd rfl hm
  | normal | start | stop | reserved => rfl

/-- Short bands are read window by window, band by band. -/
theorem readShortBands_eq (ch lo hi len : Nat) (s : State) :
    readShortBands ch lo hi len s =
      loop ((hi - lo) * 3) (fun k => readEntry false ch len (some (.inr (k % 3, lo + k / 3)))) s :=
  loop_pairs (fun i w => readInto len (setShort ch w (lo + i))) (by decide) (hi - lo) s

/-- A value of no bits is 0, and the cursor stays. -/
theorem readEntry_empty (ch : Nat) (i : FactorPlace) (s : State) :
    readEntry false ch 0 (some i) s = setFactors ch (fun f => f.put i 0) s := by
  have hpos : BitVec.ofNat 32 (s.tr.md.pos.toNat + 0) = s.tr.md.pos := by simp
  rw [readEntry, readInto, mdBits, hpos]
  rfl

/-- The bands of a long block: those sent are read in order, and bands 21 and 22 become 0. -/
theorem readLongBands_eq (slen : Nat × Nat) (gr ch : Nat) (scfsi : Vector (BitVec 1) 4) (s : State) :
    setLong ch 22 0 (setLong ch 21 0
        ((longBands slen gr scfsi).foldl (fun t b => readInto b.2 (setLong ch b.1) t) s)) =
      (planV1 slen (sentBand gr scfsi) .normal).read false ch s := by
  have hsent (k : Nat) (hk : k < 21) (t : State) :
      (if sentBand gr scfsi k = true then readInto (if k < 11 then slen.1 else slen.2) (setLong ch k) t else t) =
        readEntry false ch ((planV1 slen (sentBand gr scfsi) .normal).len k)
          ((planV1 slen (sentBand gr scfsi) .normal).place k) t := by
    cases h : sentBand gr scfsi k with
    | false => simp [planV1, h, hk, readEntry]
    | true =>
      simp only [planV1, h, hk]
      rfl
  have hlast (k : Nat) (hk : ¬k < 21) (t : State) :
      setLong ch k 0 t = readEntry false ch ((planV1 slen (sentBand gr scfsi) .normal).len k)
          ((planV1 slen (sentBand gr scfsi) .normal).place k) t := by
    simp only [planV1, hk, false_and, if_false]
    exact (readEntry_empty ch (.inl k) t).symm
  rw [FactorPlan.read, show (planV1 slen (sentBand gr scfsi) .normal).count = 21 + 1 + 1 from rfl, loop_succ, loop_succ,
    ← hlast _ (by decide), ← hlast _ (by decide), longBands, List.foldl_map, List.foldl_filter]
  congr 2
  exact loop_congr (fun k hk => funext fun t => hsent k hk t) rfl

theorem readFactorsV1_eq (gr ch : Nat) (s : State) :
    readFactorsV1 gr ch s =
      (planV1 (slens (s.granule gr ch)) (sentBand gr (rd s.tr.si.scfsi ch)) (blockKind (s.granule gr ch))).read false ch
        s := by
  unfold readFactorsV1
  dsimp only
  cases blockKind (s.granule gr ch) with
  | normal | start | stop | reserved => exact readLongBands_eq ..
  | short =>
    dsimp only
    rw [FactorPlan.read, show (planV1 _ _ .short).count = 18 + 18 from rfl, loop_add, readShortBands_eq,
      readShortBands_eq]
    refine loop_congr (fun k _ => ?_) (loop_congr (fun k hk => ?_) rfl)
    · have hmod : (18 + k) % 3 = k % 3 := by omega
      have hdiv : (18 + k) / 3 = 6 + k / 3 := by omega
      simp only [planV1, hmod, hdiv, if_neg (show ¬18 + k < 18 by omega)]
    · simp only [planV1, if_pos (show k < 18 from hk), Nat.zero_add]
  | mixed =>
    dsimp only
    rw [FactorPlan.read, show (planV1 _ _ .mixed).count = 8 + 9 + 18 from rfl, loop_add, loop_add, readShortBands_eq,
      readShortBands_eq]
    refine loop_congr (fun k _ => ?_) (loop_congr (fun k hk => ?_) (loop_congr (fun k hk => ?_) rfl))
    · have hmod : (8 + 9 + k - 8) % 3 = k % 3 := by omega
      have hdiv : 3 + (8 + 9 + k - 8) / 3 = 6 + k / 3 := by omega
      simp only [planV1, hmod, hdiv, if_neg (show ¬8 + 9 + k < 17 by omega), if_neg (show ¬8 + 9 + k < 8 by omega)]
    · simp only [planV1, Nat.add_sub_cancel_left, if_pos (show 8 + k < 17 by omega), if_neg (show ¬8 + k < 8 by omega)]
    · simp only [planV1, if_pos (show k < 17 by omega), if_pos hk]
      rfl

/-! ## The plan of a granule-channel in MPEG-2 and MPEG-2.5 (R340, R341) -/

/-- The entries of the flat list, with their lengths. -/
def planLsf (kind : BlockKind) (lens : List Nat) : FactorPlan where
  count := lens.length
  len := fun k => lens.getD k 0
  place := fun k => some (lsfPlace kind k)

/-- How many entries the flat list of a kind has, whichever row of `NR_OF_SFB` it follows. -/
def BlockKind.entries (kind : BlockKind) : Nat := [21, 36, 33].getD kind.bandColumn 0

theorem nrOfSfb_sum :
    ∀ row < 6, ∀ column < 3,
      ((List.range 4).map fun p => ((nrOfSfb.getD row []).getD column []).getD p 0).sum = [21, 36, 33].getD column 0 := by
  decide

theorem lsfLengths_row (ir : Bool) (c : Nat) : (lsfLengths ir c).2.1 < 6 := by
  unfold lsfLengths
  dsimp only
  split_ifs <;> simp

theorem length_lsfEntryLengths (ir : Bool) (c : Nat) (kind : BlockKind) :
    (lsfEntryLengths ir c kind).length = kind.entries := by
  have hcolumn : kind.bandColumn < 3 := by cases kind <;> decide
  unfold lsfEntryLengths
  simp only [List.length_flatMap, List.length_replicate]
  exact nrOfSfb_sum _ (lsfLengths_row ir c) _ hcolumn

theorem planLsf_legal {kind : BlockKind} {lens : List Nat} (h : lens.length = kind.entries) :
    (planLsf kind lens).Legal := by
  refine ⟨fun k (hk : k < lens.length) i hi => ?_, fun j _ k _ i hj hi => ?_, fun k _ hk => nomatch hk⟩
  · obtain rfl := Option.some.inj hi
    rw [h] at hk
    cases kind with
    | normal | start | stop | reserved => exact Nat.lt_trans hk (by decide)
    | short =>
      have hk36 : k < 36 := hk
      exact ⟨by omega, by omega⟩
    | mixed =>
      have hk33 : k < 33 := hk
      unfold lsfPlace
      split_ifs
      · exact (by omega : k < 23)
      · exact ⟨by omega, by omega⟩
  · have hjk : lsfPlace kind j = lsfPlace kind k := Option.some.inj (hj.trans hi.symm)
    cases kind with
    | normal | start | stop | reserved => exact Sum.inl.inj hjk
    | short =>
      have hw := Sum.inr.inj hjk
      rw [Prod.mk.injEq] at hw
      omega
    | mixed =>
      unfold lsfPlace at hjk
      split_ifs at hjk
      · exact Sum.inl.inj hjk
      · have hw := Sum.inr.inj hjk
        rw [Prod.mk.injEq] at hw
        omega

/-- An entry of the flat list stands after those before it. -/
theorem planLsf_offset (kind : BlockKind) (lens : List Nat) (k : Nat) :
    (planLsf kind lens).offset k = (lens.take k).sum := by
  induction k with
  | zero => rfl
  | succ k ih =>
    rw [FactorPlan.offset_succ, ih, List.take_add_one, List.sum_append, planLsf]
    cases h : lens[k]? <;> simp [List.getD, h]

theorem readFactorsLsf_eq (gr ch : Nat) (s : State) :
    readFactorsLsf gr ch s =
      (planLsf (blockKind (s.granule gr ch))
          (lsfEntryLengths (s.intensityRight ch) (s.granule gr ch).scalefacCompress.toNat
            (blockKind (s.granule gr ch)))).read (ch = 1) ch
        (setGranule gr ch { s.granule gr ch with
          preflag := BitVec.ofNat 1
            (lsfLengths (s.intensityRight ch) (s.granule gr ch).scalefacCompress.toNat).2.2 } s) := by
  unfold readFactorsLsf
  simp only [storeLsf_eq]
  rfl

/-! ## ReadScaleFactors (R336 to R345) -/

/-- The plan of granule-channel (gr, ch). -/
def State.factorPlan (s : State) (gr ch : Nat) : FactorPlan :=
  let g := s.granule gr ch
  if s.frm.version = 1 then planV1 (slens g) (sentBand gr (rd s.tr.si.scfsi ch)) (blockKind g)
  else planLsf (blockKind g) (lsfEntryLengths (s.intensityRight ch) g.scalefacCompress.toNat (blockKind g))

/-- The plan has illegal positions: for the right channel in LSF. -/
def State.sendsIllegal (s : State) (ch : Nat) : Bool := s.frm.version ≠ 1 ∧ ch = 1

/-- The scale factors of a channel before those of granule gr are read (R345). -/
def clearedFactors (gr : Nat) (f : ScaleFactors) : ScaleFactors :=
  if gr = 0 then default else { f with s := (default : ScaleFactors).s }

/-- The state before the entries are read: cleared factors, and `preflag` in LSF. -/
def State.factorStart (s : State) (gr ch : Nat) : State :=
  let g := s.granule gr ch
  if s.frm.version = 1 then clearFactors gr ch s
  else setGranule gr ch { g with
    preflag := BitVec.ofNat 1 (lsfLengths (s.intensityRight ch) g.scalefacCompress.toNat).2.2 } (clearFactors gr ch s)

theorem clearFactors_eq (gr ch : Nat) (s : State) :
    clearFactors gr ch s = s.withTr { s.tr with
      scf := upd s.tr.scf ch (clearedFactors gr), ill := if gr = 0 ∧ ch = 1 then default else s.tr.ill } := by
  unfold clearFactors clearedFactors
  by_cases hgr : gr = 0 <;> by_cases hch : ch = 1 <;> simp only [hgr, hch, if_true, if_false, and_self, and_false, false_and] <;>
    rfl

theorem clearedFactors_long (gr : Nat) (f : ScaleFactors) (b : Nat) :
    (clearedFactors gr f).at (.inl b) = if gr = 0 then 0 else rd f.l b := by
  unfold clearedFactors
  split
  · exact default_long b
  · rfl

theorem clearedFactors_short (gr : Nat) (f : ScaleFactors) (w b : Nat) : (clearedFactors gr f).at (.inr (w, b)) = 0 := by
  unfold clearedFactors
  split <;> exact default_short w b

/-- The bits of the bands that a long block sends (R344). -/
theorem longBands_sum (slen : Nat × Nat) (gr : Nat) (scfsi : Vector (BitVec 1) 4) :
    ((longBands slen gr scfsi).map Prod.snd).sum = (planV1 slen (sentBand gr scfsi) .normal).offset 23 := by
  have hrest : (planV1 slen (sentBand gr scfsi) .normal).offset 23 =
      (planV1 slen (sentBand gr scfsi) .normal).offset 21 := by
    have hempty (k : Nat) (hk : ¬k < 21) : (planV1 slen (sentBand gr scfsi) .normal).len k = 0 :=
      if_neg fun h => hk h.1
    rw [FactorPlan.offset_succ, FactorPlan.offset_succ, hempty _ (by decide), hempty _ (by decide),
      Nat.add_zero]
  rw [hrest, FactorPlan.offset, longBands, List.map_map, sum_map_filter]
  refine congrArg List.sum (List.map_congr_left fun k hk => ?_)
  simp only [planV1, sentBand, List.mem_range.mp hk, true_and, decide_eq_true_eq, Function.comp_apply]

section
variable {gr ch : Nat} {s : State}

theorem factorPlan_legal (gr ch : Nat) (s : State) : (s.factorPlan gr ch).Legal := by
  unfold State.factorPlan
  dsimp only
  split
  · exact planV1_legal ..
  · exact planLsf_legal (length_lsfEntryLengths ..)

/-- `Part2Length` is the number of bits that the plan takes (R344). -/
theorem part2Length_eq (gr ch : Nat) (s : State) :
    s.part2Length gr ch = (s.factorPlan gr ch).offset (s.factorPlan gr ch).count := by
  unfold State.part2Length State.factorPlan
  dsimp only
  split
  · cases hkind : blockKind (s.granule gr ch) with
    | short =>
      refine Eq.trans ?_ (sum_lengths_high _ _ (by decide : 18 ≤ 36)).symm
      rw [Nat.mul_comm 18 (slens _).2]
    | mixed =>
      refine Eq.trans ?_ (sum_lengths_high _ _ (by decide : 17 ≤ 35)).symm
      rw [Nat.mul_comm 18 (slens _).2]
    | normal | start | stop | reserved => exact longBands_sum ..
  · rw [planLsf_offset]
    exact congrArg List.sum (List.take_length (l := lsfEntryLengths _ _ _)).symm

/-- The cleared factors and `preflag` leave the rest of the state. -/
theorem factorStart_eq (gr ch : Nat) (s : State) :
    s.factorStart gr ch = { s with tr := { s.tr with
      scf := upd s.tr.scf ch (clearedFactors gr)
      ill := if gr = 0 ∧ ch = 1 then default else s.tr.ill
      si := (s.factorStart gr ch).tr.si } } := by
  unfold State.factorStart
  dsimp only
  rw [clearFactors_eq]
  split <;> rfl

theorem factorStart_frame (gr ch : Nat) (s : State) : FactorFrame ch s (s.factorStart gr ch) := by
  rw [factorStart_eq]
  exact ⟨rfl, fun c _ hc => rd_wr_other _ _ _ _ hc.symm, rfl⟩

/-- `ReadScaleFactors` reads along the plan of its granule-channel. -/
theorem readScaleFactors_eq_read (gr ch : Nat) (s : State) :
    readScaleFactors gr ch s = (s.factorPlan gr ch).read (s.sendsIllegal ch) ch (s.factorStart gr ch) := by
  unfold readScaleFactors State.factorPlan State.factorStart State.sendsIllegal
  dsimp only
  rw [clearFactors_eq]
  by_cases hv : s.frm.version = 1
  · rw [if_pos hv, if_pos hv, if_pos (by exact hv), readFactorsV1_eq]
    simp only [hv, ne_eq, not_true_eq_false, false_and, decide_false]
    rfl
  · rw [if_neg hv, if_neg hv, if_neg (by exact hv), readFactorsLsf_eq]
    simp only [hv, ne_eq, not_false_eq_true, true_and]
    rfl

/-- Reading scale factors changes nothing else. -/
theorem readScaleFactors_frame (gr ch : Nat) (s : State) : FactorFrame ch s (readScaleFactors gr ch s) := by
  rw [readScaleFactors_eq_read]
  exact (factorStart_frame gr ch s).trans (FactorPlan.read_frame ..).1

theorem readScaleFactors_si (gr ch : Nat) (s : State) :
    (readScaleFactors gr ch s).tr.si = (s.factorStart gr ch).tr.si := by
  rw [readScaleFactors_eq_read]
  exact (FactorPlan.read_frame ..).2

theorem readScaleFactors_eq (hpos : s.tr.md.pos.toNat + s.part2Length gr ch < 2 ^ 32) :
    readScaleFactors gr ch s =
      (s.factorPlan gr ch).after (s.sendsIllegal ch) ch (s.factorPlan gr ch).count (s.factorStart gr ch) := by
  have hstart : (s.factorStart gr ch).tr.md = s.tr.md := by rw [factorStart_eq]
  rw [part2Length_eq] at hpos
  rw [readScaleFactors_eq_read, FactorPlan.read_eq (factorPlan_legal gr ch s) (by rw [hstart]; exact hpos)]

section
variable (hpos : s.tr.md.pos.toNat + s.part2Length gr ch < 2 ^ 32)
include hpos

/-- The cursor moves by the length of the scale factors. -/
theorem readScaleFactors_md :
    (readScaleFactors gr ch s).tr.md =
      { s.tr.md with pos := BitVec.ofNat 32 (s.tr.md.pos.toNat + s.part2Length gr ch) } := by
  rw [readScaleFactors_eq hpos, FactorPlan.after_md, factorStart_eq, part2Length_eq]

theorem readScaleFactors_pos : (readScaleFactors gr ch s).tr.md.pos.toNat = s.tr.md.pos.toNat + s.part2Length gr ch := by
  rw [readScaleFactors_md hpos]
  exact Nat.mod_eq_of_lt hpos

/-- Without illegal positions those of the right channel are cleared in granule 0 (R345). -/
theorem readScaleFactors_ill (h : s.sendsIllegal ch = false) :
    (readScaleFactors gr ch s).tr.ill = if gr = 0 ∧ ch = 1 then default else s.tr.ill := by
  rw [readScaleFactors_eq hpos, h, FactorPlan.after_legal, factorStart_eq]

theorem readScaleFactors_scf (hch : ch < 2) :
    rd (readScaleFactors gr ch s).tr.scf ch =
      (s.factorPlan gr ch).write ((s.factorPlan gr ch).value s) (s.factorPlan gr ch).count
        (clearedFactors gr (rd s.tr.scf ch)) := by
  rw [readScaleFactors_eq hpos, FactorPlan.after_scf hch, factorStart_eq]
  refine congrArg _ ?_
  exact (rd_upd ..).trans (if_pos ⟨rfl, hch⟩)

variable {i : FactorPlace}

/-- A scale factor that is sent stands at its place. -/
theorem scaleFactor_sent (hch : ch < 2) {k : Nat} (hk : k < (s.factorPlan gr ch).count)
    (hi : (s.factorPlan gr ch).place k = some i) :
    (rd (readScaleFactors gr ch s).tr.scf ch).at i =
      factorAt s (s.tr.md.pos.toNat + (s.factorPlan gr ch).offset k) ((s.factorPlan gr ch).len k) := by
  rw [readScaleFactors_scf hpos hch, FactorPlan.at_write (factorPlan_legal gr ch s) hk hi]
  rfl

/-- A scale factor that is not sent is what it was cleared to. -/
theorem scaleFactor_unsent (hch : ch < 2) (hi : ∀ k < (s.factorPlan gr ch).count, (s.factorPlan gr ch).place k ≠ some i) :
    (rd (readScaleFactors gr ch s).tr.scf ch).at i = (clearedFactors gr (rd s.tr.scf ch)).at i := by
  rw [readScaleFactors_scf hpos hch, FactorPlan.at_write_other (factorPlan_legal gr ch s) (Nat.le_refl _) hi]

end

end

/-! ## MPEG-1 (R336 to R339) -/

section
variable {gr ch : Nat} {s : State} (hv : s.frm.version = 1)
include hv

theorem factorPlan_v1 {kind : BlockKind} (hkind : blockKind (s.granule gr ch) = kind) :
    s.factorPlan gr ch = planV1 (slens (s.granule gr ch)) (sentBand gr (rd s.tr.si.scfsi ch)) kind := by
  subst hkind
  exact if_pos hv

variable (hpos : s.tr.md.pos.toNat + s.part2Length gr ch < 2 ^ 32) (hch : ch < 2)
include hpos hch

/-- A short block: three windows in each of twelve bands, the lower six with the first length. -/
theorem scaleFactors_short (hkind : blockKind (s.granule gr ch) = .short) {l : Nat × Nat} (hl : slens (s.granule gr ch) = l) :
    s.part2Length gr ch = 18 * l.1 + 18 * l.2 ∧
      (∀ b, rd (rd (readScaleFactors gr ch s).tr.scf ch).l b = if gr = 0 then 0 else rd (rd s.tr.scf ch).l b) ∧
      ∀ w < 3, ∀ b, rd (rd (rd (readScaleFactors gr ch s).tr.scf ch).s w) b =
        if b < 6 then factorAt s (s.tr.md.pos.toNat + l.1 * (3 * b + w)) l.1
        else if b < 12 then factorAt s (s.tr.md.pos.toNat + 18 * l.1 + l.2 * (3 * (b - 6) + w)) l.2
        else 0 := by
  have hplan := factorPlan_v1 hv hkind
  rw [hl] at hplan
  refine ⟨?_, fun b => ?_, fun w hw b => ?_⟩
  · rw [part2Length_eq, hplan, Nat.mul_comm 18 l.2]
    exact sum_lengths_high _ _ (by decide : 18 ≤ 36)
  · refine (scaleFactor_unsent hpos hch (i := .inl b) fun k _ => ?_).trans (clearedFactors_long ..)
    rw [hplan]
    exact fun h => nomatch h
  · by_cases h12 : b < 12
    · have hplace : (s.factorPlan gr ch).place (3 * b + w) = some (.inr (w, b)) := by
        have hmod : (3 * b + w) % 3 = w := by omega
        have hdiv : (3 * b + w) / 3 = b := by omega
        simp only [hplan, planV1, hmod, hdiv]
      refine (scaleFactor_sent hpos hch (by rw [hplan]; show _ < 36; omega) hplace).trans ?_
      rw [hplan, if_pos h12]
      by_cases h6 : b < 6
      · have hoffset := sum_lengths_low l.1 l.2 (show 3 * b + w ≤ 18 by omega)
        rw [if_pos h6, FactorPlan.offset]
        simp only [planV1, hoffset, if_pos (show 3 * b + w < 18 by omega)]
      · have hoffset := sum_lengths_high l.1 l.2 (show 18 ≤ 3 * b + w by omega)
        have hrest : 3 * b + w - 18 = 3 * (b - 6) + w := by omega
        rw [if_neg h6, FactorPlan.offset]
        simp only [planV1, hoffset, if_neg (show ¬3 * b + w < 18 by omega), hrest, Nat.add_assoc]
    · refine (scaleFactor_unsent hpos hch (i := .inr (w, b)) fun k hk => ?_).trans ?_
      · rw [hplan] at hk ⊢
        have hk36 : k < 36 := hk
        simp only [planV1, ne_eq, Option.some.injEq, Sum.inr.injEq, Prod.mk.injEq]
        omega
      · rw [if_neg h12, if_neg (by omega), clearedFactors_short]

/-- A mixed block: eight long bands, then three windows in each of the short bands 3 to 11. -/
theorem scaleFactors_mixed (hkind : blockKind (s.granule gr ch) = .mixed) {l : Nat × Nat} (hl : slens (s.granule gr ch) = l) :
    s.part2Length gr ch = 17 * l.1 + 18 * l.2 ∧
      (∀ b, rd (rd (readScaleFactors gr ch s).tr.scf ch).l b =
        if b < 8 then factorAt s (s.tr.md.pos.toNat + l.1 * b) l.1 else if gr = 0 then 0 else rd (rd s.tr.scf ch).l b) ∧
      ∀ w < 3, ∀ b, rd (rd (rd (readScaleFactors gr ch s).tr.scf ch).s w) b =
        if b < 3 then 0
        else if b < 6 then factorAt s (s.tr.md.pos.toNat + 8 * l.1 + l.1 * (3 * (b - 3) + w)) l.1
        else if b < 12 then factorAt s (s.tr.md.pos.toNat + 17 * l.1 + l.2 * (3 * (b - 6) + w)) l.2
        else 0 := by
  have hplan := factorPlan_v1 hv hkind
  rw [hl] at hplan
  refine ⟨?_, fun b => ?_, fun w hw b => ?_⟩
  · rw [part2Length_eq, hplan, Nat.mul_comm 18 l.2]
    exact sum_lengths_high _ _ (by decide : 17 ≤ 35)
  · by_cases h8 : b < 8
    · have hplace : (s.factorPlan gr ch).place b = some (.inl b) := by simp only [hplan, planV1, if_pos h8]
      have hoffset := sum_lengths_low l.1 l.2 (show b ≤ 17 by omega)
      refine (scaleFactor_sent hpos hch (by rw [hplan]; show _ < 35; omega) hplace).trans ?_
      rw [hplan, if_pos h8, FactorPlan.offset]
      simp only [planV1, hoffset, if_pos (show b < 17 by omega)]
    · refine (scaleFactor_unsent hpos hch (i := .inl b) fun k _ => ?_).trans ?_
      · rw [hplan]
        simp only [planV1, ne_eq, Option.some.injEq]
        split_ifs with hk
        · rw [Sum.inl.injEq]; omega
        · exact fun h => nomatch h
      · rw [if_neg h8, clearedFactors_long]
  · by_cases hin : 3 ≤ b ∧ b < 12
    · obtain ⟨h3, h12⟩ := hin
      have hplace : (s.factorPlan gr ch).place (8 + (3 * (b - 3) + w)) = some (.inr (w, b)) := by
        have hmod : (3 * (b - 3) + w) % 3 = w := by omega
        have hdiv : 3 + (3 * (b - 3) + w) / 3 = b := by omega
        simp only [hplan, planV1, if_neg (show ¬8 + (3 * (b - 3) + w) < 8 by omega), Nat.add_sub_cancel_left, hmod, hdiv]
      refine (scaleFactor_sent hpos hch (by rw [hplan]; show _ < 35; omega) hplace).trans ?_
      rw [hplan, if_neg (Nat.not_lt.mpr h3), if_pos h12]
      by_cases h6 : b < 6
      · have hoffset := sum_lengths_low l.1 l.2 (show 8 + (3 * (b - 3) + w) ≤ 17 by omega)
        rw [if_pos h6, FactorPlan.offset]
        simp only [planV1, hoffset, if_pos (show 8 + (3 * (b - 3) + w) < 17 by omega), Nat.mul_add, Nat.mul_comm l.1 8,
          Nat.add_assoc]
      · have hoffset := sum_lengths_high l.1 l.2 (show 17 ≤ 8 + (3 * (b - 3) + w) by omega)
        have hrest : 8 + (3 * (b - 3) + w) - 17 = 3 * (b - 6) + w := by omega
        rw [if_neg h6, FactorPlan.offset]
        simp only [planV1, hoffset, if_neg (show ¬8 + (3 * (b - 3) + w) < 17 by omega), hrest, Nat.add_assoc]
    · refine (scaleFactor_unsent hpos hch (i := .inr (w, b)) fun k hk => ?_).trans ?_
      · rw [hplan] at hk ⊢
        have hk35 : k < 35 := hk
        simp only [planV1, ne_eq, Option.some.injEq]
        split_ifs
        · exact fun h => nomatch h
        · rw [Sum.inr.injEq, Prod.mk.injEq]; omega
      · rw [clearedFactors_short]
        by_cases h3 : b < 3
        · rw [if_pos h3]
        · rw [if_neg h3, if_neg (by omega), if_neg (by omega)]

/-- A long block: the bands that granule gr sends, one after another; the others keep their values, and from band 21 on
they are 0. -/
theorem scaleFactors_long (hs : blockKind (s.granule gr ch) ≠ .short) (hm : blockKind (s.granule gr ch) ≠ .mixed)
    {l : Nat × Nat} (hl : slens (s.granule gr ch) = l) {len : Nat → Nat}
    (hlen : ∀ b, len b = if sentBand gr (rd s.tr.si.scfsi ch) b = true then (if b < 11 then l.1 else l.2) else 0) :
    s.part2Length gr ch = ((List.range 21).map len).sum ∧
      (∀ b < 23, rd (rd (readScaleFactors gr ch s).tr.scf ch).l b =
        if 21 ≤ b then 0
        else if sentBand gr (rd s.tr.si.scfsi ch) b = true then
          factorAt s (s.tr.md.pos.toNat + ((List.range b).map len).sum) (len b)
        else (clearedFactors gr (rd s.tr.scf ch)).at (.inl b)) ∧
      ∀ w b, rd (rd (rd (readScaleFactors gr ch s).tr.scf ch).s w) b = 0 := by
  have hplan := (factorPlan_v1 hv rfl).trans (planV1_long hs hm (slens (s.granule gr ch)) (sentBand gr (rd s.tr.si.scfsi ch)))
  rw [hl] at hplan
  have hlens : ∀ b < 21, (s.factorPlan gr ch).len b = len b := fun b hb => by
    rw [hplan, hlen]
    exact if_congr (and_iff_right hb) rfl rfl
  have hoffset : ∀ b ≤ 21, (s.factorPlan gr ch).offset b = ((List.range b).map len).sum := fun b hb =>
    congrArg List.sum (List.map_congr_left fun k hk => hlens k (Nat.lt_of_lt_of_le (List.mem_range.mp hk) hb))
  have hempty : ∀ b, 21 ≤ b → (s.factorPlan gr ch).len b = 0 := fun b hb => by
    rw [hplan]
    exact if_neg fun h => Nat.not_lt.mpr hb h.1
  have hplace {k : Nat} {i : FactorPlace} :
      (s.factorPlan gr ch).place k = some i ↔ .inl k = i ∧ (k < 21 → sentBand gr (rd s.tr.si.scfsi ch) k = true) := by
    rw [hplan]
    exact planV1_long_place
  have hcount : (s.factorPlan gr ch).count = 23 := by rw [hplan]; rfl
  refine ⟨?_, fun b hb => ?_, fun w b => ?_⟩
  · rw [part2Length_eq, hcount, FactorPlan.offset_succ, FactorPlan.offset_succ, hempty 22 (by decide),
      hempty 21 (by decide), hoffset 21 (Nat.le_refl _), Nat.add_zero]
  · by_cases h21 : 21 ≤ b
    · refine (scaleFactor_sent hpos hch (hcount ▸ hb) (hplace.mpr ⟨rfl, fun h => absurd h (Nat.not_lt.mpr h21)⟩)).trans ?_
      rw [if_pos h21, hempty b h21]
      rfl
    · rw [if_neg h21]
      by_cases hsent : sentBand gr (rd s.tr.si.scfsi ch) b = true
      · refine (scaleFactor_sent hpos hch (hcount ▸ hb) (hplace.mpr ⟨rfl, fun _ => hsent⟩)).trans ?_
        rw [if_pos hsent, hoffset b (by omega), hlens b (by omega)]
      · rw [if_neg hsent]
        refine scaleFactor_unsent hpos hch (i := .inl b) fun k _ h => hsent ?_
        obtain ⟨hk, hsentk⟩ := hplace.mp h
        obtain rfl := Sum.inl.inj hk
        exact hsentk (by omega)
  · refine (scaleFactor_unsent hpos hch (i := .inr (w, b)) fun k _ h => ?_).trans (clearedFactors_short ..)
    exact nomatch (hplace.mp h).1

end

/-- A band is sent unless granule 1 takes it over from granule 0 (R337). -/
theorem sentBand_iff {gr : Nat} (hgr : gr < 2) (scfsi : Vector (BitVec 1) 4) (b : Nat) :
    sentBand gr scfsi b = true ↔
      ¬(gr = 1 ∧ rd scfsi (if b < 6 then 0 else if b < 11 then 1 else if b < 16 then 2 else 3) = 1) := by
  have hflag (v : BitVec 1) : v = 0 ↔ ¬v = 1 := by decide +revert
  have hgr0 : gr = 0 ↔ ¬gr = 1 := by omega
  rw [sentBand, decide_eq_true_eq, hflag, hgr0, not_and_or]
  rfl

/-- Settles O52: the plan of each kind gives the place of every scale factor. -/
theorem scaleFactorsOfMpegOne : Obligations.ScaleFactorsOfMpegOne := by
  unfold Obligations.ScaleFactorsOfMpegOne
  rintro gr ch s t g l1 l2 p hgr hch hv rfl hl1 hl2 rfl hpos rfl
  have hl : slens (s.granule gr ch) = (l1, l2) := by rw [hl1, hl2]; rfl
  have hlegal : s.sendsIllegal ch = false := by simp [State.sendsIllegal, hv]
  have hsi : (readScaleFactors gr ch s).tr.si = s.tr.si := by
    rw [readScaleFactors_si, State.factorStart]
    rw [if_pos hv, clearFactors_eq]
    rfl
  refine ⟨readScaleFactors_frame .., hsi, readScaleFactors_pos hpos, readScaleFactors_ill hpos hlegal, fun hkind => ?_,
    fun hkind => ?_, fun hs hm len hlen => ?_⟩
  · obtain ⟨hbits, hlong, hshort⟩ := scaleFactors_short hv hpos hch hkind hl
    exact ⟨hbits, fun b _ => hlong b, fun w hw b _ => hshort w hw b⟩
  · obtain ⟨hbits, hlong, hshort⟩ := scaleFactors_mixed hv hpos hch hkind hl
    exact ⟨hbits, fun b _ => hlong b, fun w hw b _ => hshort w hw b⟩
  · obtain ⟨hbits, hlong, hshort⟩ := scaleFactors_long hv hpos hch hs hm hl (len := len) fun b => by
      rw [hlen, ← ite_not]
      exact if_congr (sentBand_iff hgr _ b).symm rfl rfl
    refine ⟨hbits, fun b hb => (hlong b hb).trans ?_, fun w _ b _ => hshort w b⟩
    refine if_congr Iff.rfl rfl ?_
    rw [← ite_not]
    refine if_ctx_congr (by rw [sentBand_iff hgr, not_not]) (fun h => ?_) fun _ => rfl
    rw [clearedFactors_long, if_neg (by omega)]

/-! ## MPEG-2 and MPEG-2.5 (R340, R341) -/

/-- The entry of the flat list that goes to a place (R341). -/
def BlockKind.entryAt (kind : BlockKind) : FactorPlace → Option Nat
  | .inl b => if kind = .short then none else if (if kind = .mixed then 6 else 21) ≤ b then none else some b
  | .inr (w, b) =>
    if b = 12 then none else if kind = .short then some (3 * b + w)
    else if kind = .mixed ∧ 3 ≤ b then some (6 + 3 * (b - 3) + w) else none

/-- `entryAt` and `lsfPlace` are inverse to each other. -/
theorem entryAt_eq_some_iff {kind : BlockKind} {i : FactorPlace} (hi : i.Legal) {k : Nat} :
    kind.entryAt i = some k ↔ k < kind.entries ∧ lsfPlace kind k = i := by
  have hshort : BlockKind.short.entries = 36 := rfl
  have hmixed : BlockKind.mixed.entries = 33 := rfl
  match i, hi with
  | .inl b, _ =>
    cases kind with
    | normal | start | stop | reserved =>
      show (if 21 ≤ b then none else some b) = some k ↔ k < 21 ∧ Sum.inl k = Sum.inl b
      grind
    | short => simp [BlockKind.entryAt, lsfPlace]
    | mixed =>
      show (if 6 ≤ b then none else some b) = some k ↔ _
      rw [hmixed, lsfPlace]
      grind
  | .inr (w, b), ⟨hw, hb⟩ =>
    cases kind with
    | normal | start | stop | reserved => simp [BlockKind.entryAt, lsfPlace]
    | short =>
      show (if b = 12 then none else some (3 * b + w)) = some k ↔ _
      rw [hshort, lsfPlace]
      grind
    | mixed =>
      show (if b = 12 then none else if BlockKind.mixed = .mixed ∧ 3 ≤ b then some (6 + 3 * (b - 3) + w) else none) = some k ↔ _
      rw [hmixed, lsfPlace]
      grind

theorem lsfEntryLengths_eq (ir : Bool) (c : Nat) (kind : BlockKind) :
    lsfEntryLengths ir c kind = (List.range 4).flatMap fun i =>
      List.replicate (((nrOfSfb.getD (lsfLengths ir c).2.1 []).getD
        (if kind = .short then 1 else if kind = .mixed then 2 else 0) []).getD i 0) ((lsfLengths ir c).1.getD i 0) := by
  cases kind <;> rfl

/-- After the flat list a place holds the value of the entry that goes there, or what it held. -/
theorem at_write_lsf {kind : BlockKind} {lens : List Nat} (hlens : lens.length = kind.entries) {i : FactorPlace}
    (hi : i.Legal) (val : Nat → BitVec 5) (f : ScaleFactors) :
    ((planLsf kind lens).write val (planLsf kind lens).count f).at i = (kind.entryAt i).elim (f.at i) val := by
  have hlegal := planLsf_legal hlens
  cases he : kind.entryAt i with
  | some k =>
    obtain ⟨hk, hplace⟩ := (entryAt_eq_some_iff hi).mp he
    exact FactorPlan.at_write hlegal (show k < lens.length from hlens ▸ hk) (congrArg some hplace)
  | none =>
    refine FactorPlan.at_write_other hlegal (Nat.le_refl _) fun k hk hp => ?_
    have hsome := (entryAt_eq_some_iff hi).mpr ⟨hlens ▸ hk, Option.some.inj hp⟩
    exact nomatch he.symm.trans hsome

section
variable {ch : Nat} {s : State} (hv : s.frm.version ≠ 1) {kind : BlockKind} (hkind : blockKind (s.granule 0 ch) = kind)
  {lens : List Nat}
  (hlens : lsfEntryLengths (s.intensityRight ch) (s.granule 0 ch).scalefacCompress.toNat kind = lens)
include hv hkind hlens

theorem factorPlan_lsf : s.factorPlan 0 ch = planLsf kind lens := by
  subst hkind hlens
  exact if_neg hv

theorem part2Length_lsf : s.part2Length 0 ch = lens.sum := by
  subst hkind hlens
  exact if_neg hv

variable (hpos : s.tr.md.pos.toNat + s.part2Length 0 ch < 2 ^ 32) {i : FactorPlace} (hi : i.Legal)
include hpos hi

/-- The scale factor at a place is the entry that goes there, or 0. -/
theorem scaleFactors_lsf (hch : ch < 2) :
    (rd (readScaleFactors 0 ch s).tr.scf ch).at i = (kind.entryAt i).elim 0 fun k =>
      factorAt s (s.tr.md.pos.toNat + (lens.take k).sum) (lens.getD k 0) := by
  have hzero : (clearedFactors 0 (rd s.tr.scf ch)).at i = 0 := by
    cases i with
    | inl b => exact clearedFactors_long ..
    | inr i => exact clearedFactors_short ..
  rw [readScaleFactors_scf hpos hch, factorPlan_lsf hv hkind hlens,
    at_write_lsf (by rw [← hlens]; exact length_lsfEntryLengths ..) hi, hzero]
  refine congrArg (Option.elim (kind.entryAt i) 0) (funext fun k => ?_)
  rw [FactorPlan.value, planLsf_offset]
  rfl

/-- The illegal position at a place of the right channel is that of the entry that goes there, or 0. -/
theorem illegal_lsf (hch : ch = 1) :
    (readScaleFactors 0 ch s).tr.ill.at i = (kind.entryAt i).elim 0 fun k => BitVec.ofNat 5 (2 ^ lens.getD k 0 - 1) := by
  have hsends : s.sendsIllegal ch = true := decide_eq_true ⟨hv, hch⟩
  have hzero : (default : ScaleFactors).at i = 0 := by
    cases i with
    | inl b => exact default_long b
    | inr i => exact default_short i.1 i.2
  rw [readScaleFactors_eq hpos, hsends, FactorPlan.after_ill, factorStart_eq, factorPlan_lsf hv hkind hlens,
    at_write_lsf (by rw [← hlens]; exact length_lsfEntryLengths ..) hi]
  dsimp only
  rw [if_pos ⟨rfl, hch⟩, hzero]
  rfl

omit hkind hlens hpos hi in
/-- Reading the scale factors of granule 0 sets its `preflag` and leaves the rest of the side information (R340). -/
theorem readScaleFactors_preflag (hch : ch < 2) :
    (readScaleFactors 0 ch s).granule 0 ch = { s.granule 0 ch with
        preflag := BitVec.ofNat 1 (lsfLengths (s.intensityRight ch) (s.granule 0 ch).scalefacCompress.toNat).2.2 } ∧
      (∀ gr < 2, ∀ c < 2, (gr, c) ≠ (0, ch) → (readScaleFactors 0 ch s).granule gr c = s.granule gr c) ∧
      (readScaleFactors 0 ch s).tr.si = { s.tr.si with g := (readScaleFactors 0 ch s).tr.si.g } := by
  have hstart : (s.factorStart 0 ch) = setGranule 0 ch { s.granule 0 ch with
      preflag := BitVec.ofNat 1 (lsfLengths (s.intensityRight ch) (s.granule 0 ch).scalefacCompress.toNat).2.2 }
      (clearFactors 0 ch s) := if_neg hv
  have hgranule (gr c : Nat) : (readScaleFactors 0 ch s).granule gr c = (s.factorStart 0 ch).granule gr c := by
    unfold State.granule
    rw [readScaleFactors_si]
  have hclear (gr c : Nat) : (clearFactors 0 ch s).granule gr c = s.granule gr c := by
    rw [clearFactors_eq]
    rfl
  refine ⟨?_, fun gr _ c _ hne => ?_, ?_⟩
  · rw [hgranule, hstart, granule_setGranule (by decide) hch, if_pos ⟨rfl, rfl⟩]
  · rw [hgranule, hstart, granule_setGranule (by decide) hch, hclear, if_neg]
    rintro ⟨rfl, rfl⟩
    exact hne rfl
  · rw [readScaleFactors_si, hstart, clearFactors_eq]
    rfl

end

/-- The lengths without intensity stereo (R340). -/
theorem lsfLengths_plain :
    (∀ a < 5, ∀ b < 5, ∀ d < 4, ∀ e < 4, lsfLengths false (16 * (5 * a + b) + 4 * d + e) = ([a, b, d, e], 0, 0)) ∧
    (∀ a < 5, ∀ b < 5, ∀ d < 4, lsfLengths false (400 + 4 * (5 * a + b) + d) = ([a, b, d, 0], 1, 0)) ∧
    ∀ a < 4, ∀ b < 3, lsfLengths false (500 + 3 * a + b) = ([a, b, 0, 0], 2, 1) := by
  refine ⟨fun a ha b hb d hd e he => ?_, fun a ha b hb d hd => ?_, fun a ha b hb => ?_⟩
  · rw [lsfLengths, if_pos (by decide), if_pos (by omega)]
    simp only [Prod.mk.injEq, List.cons.injEq, and_true]
    omega
  · rw [lsfLengths, if_pos (by decide), if_neg (by omega), if_pos (by omega)]
    simp only [Prod.mk.injEq, List.cons.injEq, and_true]
    omega
  · rw [lsfLengths, if_pos (by decide), if_neg (by omega), if_neg (by omega)]
    simp only [Prod.mk.injEq, List.cons.injEq, and_true]
    omega

/-- The lengths of the right channel of an intensity-stereo frame, whatever the lowest bit (R340). -/
theorem lsfLengths_intensity {i : Nat} (hi : i < 2) :
    (∀ a < 5, ∀ b < 6, ∀ d < 6, lsfLengths true (2 * (36 * a + 6 * b + d) + i) = ([a, b, d, 0], 3, 0)) ∧
    (∀ a < 4, ∀ b < 4, ∀ d < 4, lsfLengths true (2 * (180 + 16 * a + 4 * b + d) + i) = ([a, b, d, 0], 4, 0)) ∧
    ∀ a < 4, ∀ b < 3, lsfLengths true (2 * (244 + 3 * a + b) + i) = ([a, b, 0, 0], 5, 0) := by
  have hhalf (h : Nat) : (2 * h + i) / 2 = h := by omega
  refine ⟨fun a ha b hb d hd => ?_, fun a ha b hb d hd => ?_, fun a ha b hb => ?_⟩
  · rw [lsfLengths, if_neg (by decide), hhalf]
    dsimp only
    rw [if_pos (by omega)]
    simp only [Prod.mk.injEq, List.cons.injEq, and_true]
    omega
  · rw [lsfLengths, if_neg (by decide), hhalf]
    dsimp only
    rw [if_neg (by omega), if_pos (by omega)]
    simp only [Prod.mk.injEq, List.cons.injEq, and_true]
    omega
  · rw [lsfLengths, if_neg (by decide), hhalf]
    dsimp only
    rw [if_neg (by omega), if_neg (by omega)]
    simp only [Prod.mk.injEq, List.cons.injEq, and_true]
    omega

/-- What goes to a long band, and to a short one. -/
theorem entryAt_long {α : Type} (kind : BlockKind) (b : Nat) (x : α) (f : Nat → α) :
    (kind.entryAt (.inl b)).elim x f =
      if kind = .short then x else if (if kind = .mixed then 6 else 21) ≤ b then x else f b := by
  unfold BlockKind.entryAt
  dsimp only
  split_ifs <;> rfl

theorem entryAt_short {α : Type} (kind : BlockKind) (w b : Nat) (x : α) (f : Nat → α) :
    (kind.entryAt (.inr (w, b))).elim x f =
      if b = 12 then x else if kind = .short then f (3 * b + w)
      else if kind = .mixed ∧ 3 ≤ b then f (6 + 3 * (b - 3) + w) else x := by
  unfold BlockKind.entryAt
  dsimp only
  split_ifs <;> rfl

/-- Settles O53: the flat list's entries go to their places, with the lengths that `scalefac_compress` gives. -/
theorem scaleFactorsOfLsf : Obligations.ScaleFactorsOfLsf := by
  unfold Obligations.ScaleFactorsOfLsf
  obtain ⟨hplain0, hplain1, hplain2⟩ := lsfLengths_plain
  refine ⟨hplain0, hplain1, hplain2, fun i hi => lsfLengths_intensity hi, ?_⟩
  rintro ch s t g ir len p hch hv rfl rfl rfl hlen hpos rfl
  have hlens := (lsfEntryLengths_eq (s.intensityRight ch) (s.granule 0 ch).scalefacCompress.toNat
    (blockKind (s.granule 0 ch))).trans hlen.symm
  have hbits := part2Length_lsf hv rfl hlens
  rw [← hbits] at hpos ⊢
  obtain ⟨hpre, hgranules, hsi⟩ := readScaleFactors_preflag hv hch
  refine ⟨rfl, readScaleFactors_pos hpos, readScaleFactors_frame .., hpre, hgranules, hsi, fun h0 => ?_,
    fun entry ill hentry hill => ?_⟩
  · rw [readScaleFactors_ill hpos (by simp [State.sendsIllegal, h0]), if_neg (by omega)]
  have hfactor {i : FactorPlace} (hi : i.Legal) := scaleFactors_lsf hv rfl hlens hpos hi hch
  have hillegal (h1 : ch = 1) {i : FactorPlace} (hi : i.Legal) := illegal_lsf hv rfl hlens hpos hi h1
  simp only [← hentry, ← hill] at hfactor hillegal
  exact ⟨fun b hb => ⟨(hfactor (i := .inl b) hb).trans (entryAt_long ..),
      fun h1 => (hillegal h1 (i := .inl b) hb).trans (entryAt_long ..)⟩,
    fun w hw b hb => ⟨(hfactor (i := .inr (w, b)) ⟨hw, hb⟩).trans (entryAt_short ..),
      fun h1 => (hillegal h1 (i := .inr (w, b)) ⟨hw, hb⟩).trans (entryAt_short ..)⟩⟩

end Sys2Proof.Machine
end

section
/-! PROOFS. One granule-channel: its lines stay in their own registers, its cursor ends at `end`, and no bit of the window
outside its own has an influence (R321, R333, R335, R361, R374, R377). -/

-- One theorem after another: threads that wait for each other exhaust the memory limit with their stacks.
set_option Elab.async false

namespace Sys2Proof.Machine

/-! ## Warnings (R486) -/

/-- `ST` is what it was, or a warning stands in it. -/
def StatusKept (s t : State) : Prop := t.st = s.st ∨ t.st.first ≠ 0

theorem StatusKept.refl (s : State) : StatusKept s s := .inl rfl

theorem StatusKept.trans {s t u : State} (h : StatusKept s t) (k : StatusKept t u) : StatusKept s u := by
  obtain hk | hk := k
  · exact h.imp (fun h => hk.trans h) fun h => by rwa [hk]
  · exact .inr hk

/-- A warning that was recorded stands. -/
theorem statusKept_warn {e : Code} (he : e ≠ .ok) (s : State) : StatusKept s (warn e s) := by
  refine .inr ?_
  rw [warn_first]
  split
  · cases e with
    | ok => exact absurd rfl he
    | _ => decide
  · assumption

/-! ## The registers of the lines (R361) -/

/-- Only the lines of the sequencer's channel, the cursor of the window, the sequencer and warnings may differ. -/
structure LinesFrame (s t : State) : Prop where
  frame : t = { s with st := t.st, tr := { s.tr with is := t.tr.is, nz := t.tr.nz, md := t.tr.md }, seq := t.seq }
  md : t.tr.md = { s.tr.md with pos := t.tr.md.pos }
  other : ∀ c, c ≠ s.seqCh → rd t.tr.is c = rd s.tr.is c ∧ rd t.tr.nz c = rd s.tr.nz c
  ch : t.seqCh = s.seqCh
  lim : t.seq.lim = s.seq.lim
  st : StatusKept s t

theorem LinesFrame.refl (s : State) : LinesFrame s s := ⟨rfl, rfl, fun _ _ => ⟨rfl, rfl⟩, rfl, rfl, .refl s⟩

theorem LinesFrame.trans (s t u : State) (h : LinesFrame s t) (k : LinesFrame t u) : LinesFrame s u where
  frame := by rw [k.frame, h.frame]
  md := by rw [k.md, h.md]
  other c hc :=
    have ht := h.other c hc
    have hu := k.other c (h.ch ▸ hc)
    ⟨hu.1.trans ht.1, hu.2.trans ht.2⟩
  ch := k.ch.trans h.ch
  lim := k.lim.trans h.lim
  st := h.st.trans k.st

theorem linesFrame_warn {e : Code} (he : e ≠ .ok) (s : State) : LinesFrame s (warn e s) :=
  ⟨rfl, rfl, fun _ _ => ⟨rfl, rfl⟩, rfl, rfl, statusKept_warn he s⟩

/-- Lines and `NZ` of the sequencer's channel written, the cursor and the sequencer moved. -/
theorem linesFrame_write {s : State} {is : Vector (Vector (BitVec 16) 576) 2} {nz : Vector (BitVec 10) 2} {seq : Sequencer}
    (p : Nat) (his : ∀ c, c ≠ s.seqCh → rd is c = rd s.tr.is c) (hnz : ∀ c, c ≠ s.seqCh → rd nz c = rd s.tr.nz c)
    (hch : seq.ch = s.seq.ch) (hlim : seq.lim = s.seq.lim) :
    LinesFrame s ((setMdPos p (s.withTr { s.tr with is := is, nz := nz })).withSeq seq) :=
  ⟨rfl, rfl, fun c hc => ⟨his c hc, hnz c hc⟩, congrArg Fin.val hch, hlim, .inl rfl⟩

theorem linesFrame_finishLines (s : State) : LinesFrame s (finishLines s) :=
  linesFrame_write _ (fun _ hc => rd_wr_other _ _ _ _ hc.symm) (fun _ hc => rd_wr_other _ _ _ _ hc.symm) rfl rfl

theorem linesFrame_setLine {s : State} (k : Nat) (v : Int) : LinesFrame s (setLine s.seqCh k v s) :=
  ⟨rfl, rfl, fun _ hc => ⟨rd_wr_other _ _ _ _ hc.symm, rfl⟩, rfl, rfl, .inl rfl⟩

/-- The lines that one word stores. -/
def setLines (ch line : Nat) (vs : List (Int × Nat)) (s : State) : State :=
  vs.foldl (fun t v => setLine ch (line + v.2) v.1 t) s

theorem storeLines_eq (vs : List Int) (p : Nat) (s : State) :
    storeLines vs p s = (setMdPos p (setLines s.seqCh s.seq.line vs.zipIdx s)).withSeq
      { s.seq with line := s.seq.line + vs.length } := rfl

theorem linesFrame_setLines {ch : Nat} (line : Nat) (vs : List (Int × Nat)) {s : State} (hch : ch = s.seqCh) :
    LinesFrame s (setLines ch line vs s) := by
  induction vs generalizing s with
  | nil => exact .refl s
  | cons v vs ih =>
    subst hch
    exact (linesFrame_setLine ..).trans _ _ _ (ih rfl)

theorem linesFrame_storeLines (vs : List Int) (p : Nat) (s : State) : LinesFrame s (storeLines vs p s) := by
  have hset := linesFrame_setLines s.seq.line vs.zipIdx (rfl : s.seqCh = s.seqCh)
  refine hset.trans _ _ _ ?_
  rw [storeLines_eq]
  exact ⟨rfl, rfl, fun _ _ => ⟨rfl, rfl⟩, hset.ch.symm, hset.lim.symm, .inl rfl⟩

/-! ## One code word -/

theorem pairStep_eq (t : Nat) (s : State) :
    pairStep t s =
      if s.seq.done = true ∨ 574 < s.seq.line then s
      else (pairWord s.cfg t s.tr.md s.seq.lim s.tr.md.pos.toNat).elim (finishLines (warn .huffmanTableError s))
        fun r => storeLines [r.1.1, r.1.2] r.2 s := by
  unfold pairStep
  cases pairWord s.cfg t s.tr.md s.seq.lim s.tr.md.pos.toNat <;> rfl

theorem quadStep_eq (sel : BitVec 1) (s : State) :
    quadStep sel s =
      if s.seq.done = true then s
      else if s.tr.md.pos.toNat < s.seq.lim ∧ s.seq.line ≤ 572 then
        (quadWord s.cfg sel s.tr.md s.seq.lim s.tr.md.pos.toNat).elim (finishLines s)
          fun r => storeLines [r.1.1, r.1.2.1, r.1.2.2.1, r.1.2.2.2] r.2 s
      else finishLines s := by
  unfold quadStep
  cases quadWord s.cfg sel s.tr.md s.seq.lim s.tr.md.pos.toNat <;> rfl

/-- A pair step does nothing, stores a pair, or ends with a warning. -/
theorem pairStep_cases (t : Nat) (s : State) :
    pairStep t s = s ∨
      (s.seq.done = false ∧ ∃ r, pairWord s.cfg t s.tr.md s.seq.lim s.tr.md.pos.toNat = some r ∧
        pairStep t s = storeLines [r.1.1, r.1.2] r.2 s) ∨
      pairStep t s = finishLines (warn .huffmanTableError s) := by
  rw [pairStep_eq]
  by_cases hidle : s.seq.done = true ∨ 574 < s.seq.line
  · exact .inl (if_pos hidle)
  · have hdone : s.seq.done = false := by simpa using fun h => hidle (.inl h)
    rw [if_neg hidle]
    cases pairWord s.cfg t s.tr.md s.seq.lim s.tr.md.pos.toNat with
    | some r => exact .inr (.inl ⟨hdone, r, rfl, rfl⟩)
    | none => exact .inr (.inr rfl)

/-- A quadruple step does nothing once the granule-channel is finished, stores a quadruple, or ends. -/
theorem quadStep_cases (sel : BitVec 1) (s : State) :
    (s.seq.done = true ∧ quadStep sel s = s) ∨
      (s.seq.done = false ∧ ∃ r, quadWord s.cfg sel s.tr.md s.seq.lim s.tr.md.pos.toNat = some r ∧
        quadStep sel s = storeLines [r.1.1, r.1.2.1, r.1.2.2.1, r.1.2.2.2] r.2 s) ∨
      quadStep sel s = finishLines s := by
  rw [quadStep_eq]
  by_cases hdone : s.seq.done = true
  · exact .inl ⟨hdone, if_pos hdone⟩
  · rw [if_neg hdone]
    split
    · cases quadWord s.cfg sel s.tr.md s.seq.lim s.tr.md.pos.toNat with
      | some r => exact .inr (.inl ⟨by simpa using hdone, r, rfl, rfl⟩)
      | none => exact .inr (.inr rfl)
    · exact .inr (.inr rfl)

theorem linesFrame_pairStep (t : Nat) (s : State) : LinesFrame s (pairStep t s) := by
  obtain h | ⟨-, r, -, h⟩ | h := pairStep_cases t s <;> rw [h]
  · exact .refl s
  · exact linesFrame_storeLines ..
  · exact (linesFrame_warn (by decide) s).trans _ _ _ (linesFrame_finishLines _)

theorem linesFrame_quadStep (sel : BitVec 1) (s : State) : LinesFrame s (quadStep sel s) := by
  obtain ⟨-, h⟩ | ⟨-, r, -, h⟩ | h := quadStep_cases sel s <;> rw [h]
  · exact .refl s
  · exact linesFrame_storeLines ..
  · exact linesFrame_finishLines s

/-! ## All of them (R361) -/

/-- The quadruples, one step at a time. -/
theorem quadRegion_succ (sel : BitVec 1) (fuel : Nat) (s : State) :
    quadRegion sel (fuel + 1) s = if s.seq.done then s else quadRegion sel fuel (quadStep sel s) := rfl

theorem quadRegion_zero (sel : BitVec 1) (s : State) : quadRegion sel 0 s = finishLines s := rfl

theorem linesFrame_quadRegion (sel : BitVec 1) (fuel : Nat) (s : State) : LinesFrame s (quadRegion sel fuel s) := by
  induction fuel generalizing s with
  | zero => rw [quadRegion_zero]; exact linesFrame_finishLines s
  | succ fuel ih =>
    rw [quadRegion_succ]
    split
    · exact .refl s
    · exact (linesFrame_quadStep sel s).trans _ _ _ (ih _)

/-- A granule-channel that is finished has its cursor at `end`. -/
def FinishedAtEnd (s : State) : Prop := s.seq.done = true → s.tr.md.pos = BitVec.ofNat 32 s.seq.lim

theorem finishedAtEnd_finishLines (s : State) : FinishedAtEnd (finishLines s) := fun _ => rfl

theorem finishedAtEnd_storeLines {s : State} (h : s.seq.done = false) (vs : List Int) (p : Nat) :
    FinishedAtEnd (storeLines vs p s) := fun hd => Bool.noConfusion (h.symm.trans hd)

theorem finishedAtEnd_pairStep (t : Nat) {s : State} (h : FinishedAtEnd s) : FinishedAtEnd (pairStep t s) := by
  obtain hs | ⟨hdone, r, -, hs⟩ | hs := pairStep_cases t s <;> rw [hs]
  · exact h
  · exact finishedAtEnd_storeLines hdone _ _
  · exact finishedAtEnd_finishLines _

theorem finishedAtEnd_quadStep (sel : BitVec 1) {s : State} (h : FinishedAtEnd s) : FinishedAtEnd (quadStep sel s) := by
  obtain ⟨-, hs⟩ | ⟨hdone, r, -, hs⟩ | hs := quadStep_cases sel s <;> rw [hs]
  · exact h
  · exact finishedAtEnd_storeLines hdone _ _
  · exact finishedAtEnd_finishLines _

/-- After the quadruples the granule-channel is finished. -/
theorem quadRegion_pos (sel : BitVec 1) (fuel : Nat) {s : State} (h : FinishedAtEnd s) :
    (quadRegion sel fuel s).tr.md.pos = BitVec.ofNat 32 s.seq.lim := by
  induction fuel generalizing s with
  | zero => rw [quadRegion_zero]; rfl
  | succ fuel ih =>
    rw [quadRegion_succ]
    split
    · exact h ‹_›
    · rw [ih (finishedAtEnd_quadStep sel h), (linesFrame_quadStep sel s).lim]

/-- The pairs of the big-value region. -/
def bigValues (gr ch stop : Nat) (s : State) : State :=
  loop (s.granule gr ch).bigValues.toNat
    (fun i => pairStep (tableAt (s.granule gr ch) (regionBounds s.cfg s.frm.rate.toNat (s.granule gr ch)) (2 * i)))
    (startLines gr ch stop s)

theorem huffDecode_eq (gr ch stop : Nat) (s : State) :
    huffDecode gr ch stop s = quadRegion (s.granule gr ch).count1TableSelect 145 (bigValues gr ch stop s) := rfl

theorem linesFrame_bigValues (gr ch stop : Nat) (s : State) :
    LinesFrame (startLines gr ch stop s) (bigValues gr ch stop s) :=
  loop_keeps LinesFrame.refl LinesFrame.trans (fun _ _ => linesFrame_pairStep ..) _ _

theorem linesFrame_huffDecode (gr ch stop : Nat) (s : State) :
    LinesFrame (startLines gr ch stop s) (huffDecode gr ch stop s) :=
  (linesFrame_bigValues gr ch stop s).trans _ _ _ (linesFrame_quadRegion ..)

/-- The cursor ends at `end` (R374). -/
theorem huffDecode_md (gr ch stop : Nat) (s : State) :
    (huffDecode gr ch stop s).tr.md = { s.tr.md with pos := BitVec.ofNat 32 stop } := by
  have hstart : FinishedAtEnd (startLines gr ch stop s) := fun h => nomatch h
  have hbig : FinishedAtEnd (bigValues gr ch stop s) :=
    loop_induct (P := fun _ t => FinishedAtEnd t) hstart fun _ _ _ ht => finishedAtEnd_pairStep _ ht
  rw [(linesFrame_huffDecode gr ch stop s).md, huffDecode_eq, quadRegion_pos _ _ hbig, (linesFrame_bigValues ..).lim]
  rfl

theorem huffDecode_frame (gr ch stop : Nat) (s : State) :
    huffDecode gr ch stop s = { s with
      st := (huffDecode gr ch stop s).st
      tr := { s.tr with
        is := (huffDecode gr ch stop s).tr.is
        nz := (huffDecode gr ch stop s).tr.nz
        md := (huffDecode gr ch stop s).tr.md }
      seq := (huffDecode gr ch stop s).seq } := (linesFrame_huffDecode gr ch stop s).frame

theorem huffDecode_si (gr ch stop : Nat) (s : State) : (huffDecode gr ch stop s).tr.si = s.tr.si := by
  rw [huffDecode_frame]

theorem startLines_seqCh {ch : Nat} (hch : ch < 2) (gr stop : Nat) (s : State) : (startLines gr ch stop s).seqCh = ch :=
  Nat.mod_eq_of_lt hch

theorem huffDecode_other {ch c : Nat} (hch : ch < 2) (hc : c ≠ ch) (gr stop : Nat) (s : State) :
    rd (huffDecode gr ch stop s).tr.is c = rd s.tr.is c ∧ rd (huffDecode gr ch stop s).tr.nz c = rd s.tr.nz c :=
  (linesFrame_huffDecode gr ch stop s).other c (by rwa [startLines_seqCh hch])

theorem statusKept_huffDecode (gr ch stop : Nat) (s : State) : StatusKept s (huffDecode gr ch stop s) :=
  (linesFrame_huffDecode gr ch stop s).st

/-! ## Other bytes in the window (R374, R377) -/

/-- The state with other bytes in its main-data window. -/
def State.withWindow (s : State) (bytes : List Byte) : State :=
  s.withTr { s.tr with md := { s.tr.md with bytes := bytes } }

/-- The lines that are still to be read lie in bits lo .. stop - 1, in which the bytes agree with the window. -/
structure ReadsWithin (lo stop : Nat) (bytes : List Byte) (s : State) : Prop where
  lim : s.seq.lim = stop
  start : lo ≤ s.tr.md.pos.toNat
  finish : s.tr.md.pos.toNat ≤ stop
  bits : SameBits { s.tr.md with bytes := bytes } s.tr.md lo stop

section
variable {lo stop : Nat} {bytes : List Byte} {s : State}

/-- After a step that only reads lines the same holds, if the cursor is still between the bounds. -/
theorem ReadsWithin.step {t : State} (h : ReadsWithin lo stop bytes s) (hf : LinesFrame s t)
    (hlo : lo ≤ t.tr.md.pos.toNat) (hhi : t.tr.md.pos.toNat ≤ stop) : ReadsWithin lo stop bytes t := by
  refine ⟨hf.lim.trans h.lim, hlo, hhi, ?_⟩
  rw [hf.md]
  exact ⟨rfl, h.bits.bits⟩

theorem setLines_withWindow (ch line : Nat) (vs : List (Int × Nat)) (s : State) :
    setLines ch line vs (s.withWindow bytes) = (setLines ch line vs s).withWindow bytes := by
  induction vs generalizing s with
  | nil => rfl
  | cons v vs ih => exact ih (setLine ch (line + v.2) v.1 s)

theorem storeLines_withWindow (vs : List Int) (p : Nat) (s : State) :
    storeLines vs p (s.withWindow bytes) = (storeLines vs p s).withWindow bytes := by
  rw [storeLines_eq, storeLines_eq]
  exact congrArg (fun t => (setMdPos p t).withSeq { s.seq with line := s.seq.line + vs.length })
    (setLines_withWindow s.seqCh s.seq.line vs.zipIdx s)

theorem loop_withWindow {f : Nat → State → State}
    (hf : ∀ i t, ReadsWithin lo stop bytes t →
      f i (t.withWindow bytes) = (f i t).withWindow bytes ∧ ReadsWithin lo stop bytes (f i t))
    (h : ReadsWithin lo stop bytes s) (n : Nat) :
    loop n f (s.withWindow bytes) = (loop n f s).withWindow bytes ∧ ReadsWithin lo stop bytes (loop n f s) := by
  induction n with
  | zero => exact ⟨rfl, h⟩
  | succ n ih =>
    rw [loop_succ, loop_succ, ih.1]
    exact hf n _ ih.2

variable (hstop : stop < 2 ^ 32) (hlo : lo ≤ stop)
include hstop

theorem readsWithin_storeLines (h : ReadsWithin lo stop bytes s) (vs : List Int) {p : Nat} (hp : s.tr.md.pos.toNat ≤ p)
    (hp' : p ≤ stop) : ReadsWithin lo stop bytes (storeLines vs p s) := by
  have hpos : (storeLines vs p s).tr.md.pos.toNat = p := Nat.mod_eq_of_lt (by omega)
  have := h.start
  exact h.step (linesFrame_storeLines vs p s) (by omega) (by omega)

include hlo

theorem readsWithin_finishLines (h : ReadsWithin lo stop bytes s) : ReadsWithin lo stop bytes (finishLines s) := by
  have hpos : (finishLines s).tr.md.pos.toNat = stop := (Nat.mod_eq_of_lt (h.lim ▸ hstop)).trans h.lim
  exact h.step (linesFrame_finishLines s) (by omega) (by omega)

/-- A pair step sees no bits but those before `end` from the cursor on. -/
theorem pairStep_withWindow (h : ReadsWithin lo stop bytes s) (t : Nat) :
    pairStep t (s.withWindow bytes) = (pairStep t s).withWindow bytes ∧ ReadsWithin lo stop bytes (pairStep t s) := by
  have hword : pairWord (s.withWindow bytes).cfg t (s.withWindow bytes).tr.md (s.withWindow bytes).seq.lim
      (s.withWindow bytes).tr.md.pos.toNat = pairWord s.cfg t s.tr.md s.seq.lim s.tr.md.pos.toNat := by
    have hcongr := pairWord_congr s.cfg t h.bits h.start
    rw [← h.lim] at hcongr
    exact hcongr
  rw [pairStep_eq, hword, pairStep_eq]
  by_cases hidle : s.seq.done = true ∨ 574 < s.seq.line
  · rw [if_pos hidle, if_pos (by exact hidle)]
    exact ⟨rfl, h⟩
  · rw [if_neg hidle, if_neg (by exact hidle)]
    cases hw : pairWord s.cfg t s.tr.md s.seq.lim s.tr.md.pos.toNat with
    | some r =>
      have hb := pairWord_bounds (v := r.1) (q := r.2) hw
      have hin := hb.2 (h.lim ▸ h.finish)
      exact ⟨storeLines_withWindow .., readsWithin_storeLines hstop h _ hb.1 (h.lim ▸ hin)⟩
    | none =>
      have hwarn : ReadsWithin lo stop bytes (warn .huffmanTableError s) := ⟨h.lim, h.start, h.finish, h.bits⟩
      exact ⟨rfl, readsWithin_finishLines hstop hlo hwarn⟩

theorem quadStep_withWindow (h : ReadsWithin lo stop bytes s) (sel : BitVec 1) :
    quadStep sel (s.withWindow bytes) = (quadStep sel s).withWindow bytes ∧
      ReadsWithin lo stop bytes (quadStep sel s) := by
  have hword : quadWord (s.withWindow bytes).cfg sel (s.withWindow bytes).tr.md (s.withWindow bytes).seq.lim
      (s.withWindow bytes).tr.md.pos.toNat = quadWord s.cfg sel s.tr.md s.seq.lim s.tr.md.pos.toNat := by
    have hcongr := quadWord_congr s.cfg sel h.bits h.start
    rw [← h.lim] at hcongr
    exact hcongr
  rw [quadStep_eq, hword, quadStep_eq]
  by_cases hdone : s.seq.done = true
  · rw [if_pos hdone, if_pos (by exact hdone)]
    exact ⟨rfl, h⟩
  rw [if_neg hdone, if_neg (by exact hdone)]
  by_cases hroom : s.tr.md.pos.toNat < s.seq.lim ∧ s.seq.line ≤ 572
  · rw [if_pos hroom, if_pos (by exact hroom)]
    cases hw : quadWord s.cfg sel s.tr.md s.seq.lim s.tr.md.pos.toNat with
    | some r =>
      have hb := quadWord_bounds (v := r.1) (q := r.2) hw
      exact ⟨storeLines_withWindow .., readsWithin_storeLines hstop h _ (Nat.le_of_lt hb.1) (h.lim ▸ hb.2)⟩
    | none => exact ⟨rfl, readsWithin_finishLines hstop hlo h⟩
  · rw [if_neg hroom, if_neg (by exact hroom)]
    exact ⟨rfl, readsWithin_finishLines hstop hlo h⟩

theorem quadRegion_withWindow (h : ReadsWithin lo stop bytes s) (sel : BitVec 1) (fuel : Nat) :
    quadRegion sel fuel (s.withWindow bytes) = (quadRegion sel fuel s).withWindow bytes := by
  induction fuel generalizing s with
  | zero => rfl
  | succ fuel ih =>
    obtain ⟨hstep, hnext⟩ := quadStep_withWindow hstop hlo h sel
    rw [quadRegion_succ, quadRegion_succ, hstep, ih hnext]
    cases hdone : s.seq.done with
    | true => rw [if_pos (by exact hdone), if_pos rfl]
    | false => rw [if_neg (by rw [show (s.withWindow bytes).seq.done = false from hdone]; decide), if_neg (by decide)]

/-- `HuffDecode` sees no bits but those from its cursor up to `end` (R374). -/
theorem huffDecode_withWindow (gr ch : Nat) (hpos : lo ≤ s.tr.md.pos.toNat) (hpos' : s.tr.md.pos.toNat ≤ stop)
    (hbits : SameBits { s.tr.md with bytes := bytes } s.tr.md lo stop) :
    huffDecode gr ch stop (s.withWindow bytes) = (huffDecode gr ch stop s).withWindow bytes := by
  have hbig : bigValues gr ch stop (s.withWindow bytes) = (bigValues gr ch stop s).withWindow bytes ∧
      ReadsWithin lo stop bytes (bigValues gr ch stop s) := by
    have hstart : ReadsWithin lo stop bytes (startLines gr ch stop s) := ⟨rfl, hpos, hpos', hbits⟩
    exact loop_withWindow (fun _ _ h => pairStep_withWindow hstop hlo h _) hstart _
  rw [huffDecode_eq, huffDecode_eq, hbig.1]
  exact quadRegion_withWindow hstop hlo hbig.2 _ _

end

/-! Scale factors. -/

namespace FactorPlan

variable {P : FactorPlan} {ill : Bool} {ch : Nat} {s : State} {bytes : List Byte}

theorem after_withWindow {k : Nat} (h : ∀ j < k, P.value (s.withWindow bytes) j = P.value s j) :
    P.after ill ch k (s.withWindow bytes) = (P.after ill ch k s).withWindow bytes := by
  have hwrite : P.write (P.value (s.withWindow bytes)) k = P.write (P.value s) k := funext fun f => write_congr h f
  unfold after
  rw [hwrite]
  rfl

/-- An entry depends on its own bits only. -/
theorem value_withWindow
    (h : ∀ k, s.tr.md.pos.toNat ≤ k → k < s.tr.md.pos.toNat + P.offset P.count → bitAt bytes k = bitAt s.tr.md.bytes k)
    {j : Nat} (hj : j < P.count) : P.value (s.withWindow bytes) j = P.value s j := by
  have hlast := P.offset_mono (Nat.succ_le_of_lt hj)
  rw [offset_succ] at hlast
  have hpos : (s.withWindow bytes).tr.md.pos = s.tr.md.pos := rfl
  refine congrArg (BitVec.ofNat 5) (bitsAt_congr _ fun k hlo hhi => h k ?_ ?_) <;> rw [hpos] at hlo hhi <;> omega

end FactorPlan

section
variable {gr ch p stop : Nat} {s : State} {bytes : List Byte}

theorem factorStart_withWindow (gr ch : Nat) (s : State) (bytes : List Byte) :
    (s.withWindow bytes).factorStart gr ch = (s.factorStart gr ch).withWindow bytes := by
  unfold State.factorStart
  dsimp only
  rw [clearFactors_eq, clearFactors_eq]
  by_cases hv : s.frm.version = 1
  · rw [if_pos hv, if_pos (by exact hv)]
    rfl
  · rw [if_neg hv, if_neg (by exact hv)]
    rfl

/-- `ReadScaleFactors` sees no bits but its own (R345). -/
theorem readScaleFactors_withWindow (hpos : s.tr.md.pos.toNat + s.part2Length gr ch < 2 ^ 32)
    (h : ∀ k, s.tr.md.pos.toNat ≤ k → k < s.tr.md.pos.toNat + s.part2Length gr ch →
      bitAt bytes k = bitAt s.tr.md.bytes k) :
    readScaleFactors gr ch (s.withWindow bytes) = (readScaleFactors gr ch s).withWindow bytes := by
  rw [readScaleFactors_eq hpos, readScaleFactors_eq (s := s.withWindow bytes) hpos, factorStart_withWindow]
  refine FactorPlan.after_withWindow fun j hj => FactorPlan.value_withWindow (fun k hlo hhi => ?_) hj
  rw [part2Length_eq] at h
  rw [factorStart_eq] at hlo hhi ⊢
  exact h k hlo hhi

/-! ## The granule-channel (R321) -/

/-- A granule-channel that passes its checks has room for its scale factors, inside the window (R335). -/
theorem granuleChecks_none (h : granuleChecks gr ch p s = none) :
    s.part2Length gr ch ≤ (s.granule gr ch).part23Length.toNat := by
  unfold granuleChecks at h
  dsimp only at h
  split_ifs at h
  omega

theorem decodeLines_silent (gr ch p : Nat) (s : State) : decodeLines true gr ch p s = silence ch s := rfl

theorem decodeLines_failed {e : Code} (h : granuleChecks gr ch p s = some e) :
    decodeLines false gr ch p s = silence ch (warn e s) := by
  simp only [decodeLines, h, Bool.false_eq_true, if_false]

theorem decodeLines_passed (h : granuleChecks gr ch p s = none) :
    decodeLines false gr ch p s =
      huffDecode gr ch (p + (s.granule gr ch).part23Length.toNat) (readScaleFactors gr ch (setMdPos p s)) := by
  simp only [decodeLines, h, Bool.false_eq_true, if_false]

/-- A granule-channel writes its own registers, and records at most a warning. -/
structure ChannelFrame (ch : Nat) (s t : State) : Prop where
  frame : t = { s with st := t.st, tr := t.tr, seq := t.seq }
  other : ∀ c < 2, c ≠ ch → rd t.tr.nz c = rd s.tr.nz c ∧ rd t.tr.is c = rd s.tr.is c ∧ rd t.tr.scf c = rd s.tr.scf c
  st : StatusKept s t

theorem decodeLines_frame (under : Bool) (gr p : Nat) (hch : ch < 2) (s : State) :
    ChannelFrame ch s (decodeLines under gr ch p s) := by
  cases under with
  | true => exact ⟨rfl, (silence_silent hch s).other, .refl s⟩
  | false =>
    cases hchecks : granuleChecks gr ch p s with
    | some e =>
      rw [decodeLines_failed hchecks]
      have hcode : e ≠ .ok := by obtain rfl | rfl := granuleChecks_code hchecks <;> decide
      exact ⟨rfl, (silence_silent hch (warn e s)).other, statusKept_warn hcode s⟩
    | none =>
      rw [decodeLines_passed hchecks]
      have hscf := readScaleFactors_frame gr ch (setMdPos p s)
      have hst : (readScaleFactors gr ch (setMdPos p s)).st = s.st := by rw [hscf.frame]; rfl
      refine ⟨?_, fun c hc hne => ?_, ?_⟩
      · rw [huffDecode_frame, hscf.frame]
        rfl
      · obtain ⟨his, hnz⟩ := huffDecode_other hch hne gr (p + (s.granule gr ch).part23Length.toNat)
          (readScaleFactors gr ch (setMdPos p s))
        rw [huffDecode_frame]
        refine ⟨hnz.trans ?_, his.trans ?_, (hscf.other c hc hne).trans rfl⟩ <;> rw [hscf.frame] <;> rfl
      · exact StatusKept.trans (.inl hst) (statusKept_huffDecode ..)

section
variable (hnone : granuleChecks gr ch p s = none) (hstop : p + (s.granule gr ch).part23Length.toNat < 2 ^ 32)
include hnone hstop

/-- The scale factors of a granule-channel that passes its checks stand from bit P on. -/
theorem scaleFactors_room :
    (setMdPos p s).tr.md.pos.toNat = p ∧
      (setMdPos p s).tr.md.pos.toNat + (setMdPos p s).part2Length gr ch < 2 ^ 32 := by
  have hcursor : (setMdPos p s).tr.md.pos.toNat = p := Nat.mod_eq_of_lt (by omega)
  refine ⟨hcursor, ?_⟩
  rw [hcursor]
  exact Nat.lt_of_le_of_lt (Nat.add_le_add_left (granuleChecks_none hnone) p) hstop

/-- The cursor stands after the scale factors, at `end` at the latest (R345). -/
theorem scaleFactors_end :
    (readScaleFactors gr ch (setMdPos p s)).tr.md.pos.toNat = p + s.part2Length gr ch ∧
      p + s.part2Length gr ch ≤ p + (s.granule gr ch).part23Length.toNat := by
  obtain ⟨hcursor, hpos⟩ := scaleFactors_room hnone hstop
  refine ⟨(readScaleFactors_pos hpos).trans ?_, Nat.add_le_add_left (granuleChecks_none hnone) p⟩
  rw [hcursor]
  rfl

/-- No bit of the window outside P .. `end` - 1 has an influence on a granule-channel. -/
theorem decodeLines_withWindow
    (h : ∀ k, p ≤ k → k < p + (s.granule gr ch).part23Length.toNat → bitAt bytes k = bitAt s.tr.md.bytes k) :
    decodeLines false gr ch p (s.withWindow bytes) = (decodeLines false gr ch p s).withWindow bytes := by
  obtain ⟨hcursor, hpos⟩ := scaleFactors_room hnone hstop
  obtain ⟨hend, hle⟩ := scaleFactors_end hnone hstop
  have hscf : readScaleFactors gr ch (setMdPos p (s.withWindow bytes)) =
      (readScaleFactors gr ch (setMdPos p s)).withWindow bytes := by
    have hset : setMdPos p (s.withWindow bytes) = (setMdPos p s).withWindow bytes := rfl
    rw [hset]
    refine readScaleFactors_withWindow hpos fun k hlo hhi => h k (hcursor ▸ hlo) ?_
    rw [hcursor] at hhi
    exact Nat.lt_of_lt_of_le hhi hle
  have hbytes : (readScaleFactors gr ch (setMdPos p s)).tr.md.bytes = s.tr.md.bytes := by
    rw [(readScaleFactors_frame gr ch (setMdPos p s)).md]
    rfl
  rw [decodeLines_passed hnone, decodeLines_passed (by exact hnone), hscf]
  refine huffDecode_withWindow hstop (Nat.le_add_right p _) gr ch (by omega) (by omega) ⟨rfl, fun k hlo hhi => ?_⟩
  rw [hbytes]
  exact h k hlo hhi

end

end

/-- Settles O32: the checks pick silence or the reading of scale factors and lines, each of which sees its own bits only. -/
theorem granuleChannelIsDecoded : Obligations.GranuleChannelIsDecoded := by
  unfold Obligations.GranuleChannelIsDecoded
  rintro gr ch p stop s t - hch rfl rfl
  have hframe := decodeLines_frame false gr p hch s
  refine ⟨hframe.frame, hframe.other, fun e he => ?_, fun hnone hstop => ?_⟩
  · rw [decodeLines_failed he]
    obtain ⟨hnz, hlines, hlong, hshort, -, htr⟩ := silence_silent hch (warn e s)
    exact ⟨rfl, hnz, hlines, hlong, hshort, htr, rfl⟩
  · obtain ⟨hend, hle⟩ := scaleFactors_end hnone hstop
    refine ⟨setMdPos p s, readScaleFactors gr ch (setMdPos p s), rfl, rfl, hend, hend.trans_le hle,
      decodeLines_passed hnone, ?_, ?_, fun bytes hbytes => decodeLines_withWindow hnone hstop hbytes⟩
    · rw [decodeLines_passed hnone, huffDecode_md, (readScaleFactors_frame gr ch (setMdPos p s)).md]
      rfl
    · rw [decodeLines_passed hnone, huffDecode_frame]

end Sys2Proof.Machine
end

section
/-! PROOFS. The granules of a Layer III frame: their stages in order, the frame around them, frames that under-run, and when
a frame ends without a warning (R321, R331 to R334, R429, R486). -/

-- One theorem after another: threads that wait for each other exhaust the memory limit with their stacks.
set_option Elab.async false

namespace Sys2Proof.Machine

open Act

/-! ## The stages after the lines (R321, R429) -/

/-- What the spectral stages and the filters leave alone, as far as lines, warnings and frame go. -/
structure StagesFrame (s t : State) : Prop where
  first : t.st.first = s.st.first
  gerr : t.st.gerr = s.st.gerr
  frm : t.frm = s.frm
  is : t.tr.is = s.tr.is
  nz : t.tr.nz = s.tr.nz

theorem StagesFrame.refl (s : State) : StagesFrame s s := ⟨rfl, rfl, rfl, rfl, rfl⟩

theorem StagesFrame.trans (s t u : State) (h : StagesFrame s t) (k : StagesFrame t u) : StagesFrame s u :=
  ⟨k.first.trans h.first, k.gerr.trans h.gerr, k.frm.trans h.frm, k.is.trans h.is, k.nz.trans h.nz⟩

theorem stagesFrame_requantize (gr ch : Nat) (s : State) : StagesFrame s (requantize gr ch s) := ⟨rfl, rfl, rfl, rfl, rfl⟩

theorem stagesFrame_stereo (gr : Nat) (s : State) : StagesFrame s (stereo gr s) := by
  unfold stereo
  split <;> exact ⟨rfl, rfl, rfl, rfl, rfl⟩

theorem stagesFrame_hybrid (kind : BlockKind) (ch : Nat) (s : State) : StagesFrame s (hybrid kind ch s) :=
  ⟨rfl, rfl, rfl, rfl, rfl⟩

theorem stagesFrame_of_synth {s t : State} (h : SynthFrame s t) : StagesFrame s t :=
  ⟨h.first, h.gerr, h.frm, (congrArg Transient.is h.tr :), (congrArg Transient.nz h.tr :)⟩

/-- None of the stages warns, and none writes a line. -/
theorem stagesFrame_granuleStages (gr : Nat) (s : State) : StagesFrame s (granuleStages gr s) := by
  have hloop {f : Nat → State → State} (h : ∀ i t, StagesFrame t (f i t)) (t : State) : StagesFrame t (loop s.nch f t) :=
    loop_keeps StagesFrame.refl StagesFrame.trans h _ t
  have hstereo (t : State) : StagesFrame t (if s.nch = 2 then stereo gr t else t) := by
    split
    · exact stagesFrame_stereo gr t
    · exact .refl t
  unfold granuleStages
  exact (((hloop (stagesFrame_requantize gr) s).trans _ _ _ (hstereo _)).trans _ _ _
    (hloop (fun _ _ => stagesFrame_hybrid ..) _)).trans _ _ _ (hloop (fun ch t => stagesFrame_of_synth (feedHybrid_frame ch t)) _)

/-- `Feed` is 18 synthesis calls, each with its column of `HY` (R429). -/
theorem feedHybrid_fedBy (ch : Nat) (s : State) : FedBy ch s (feedHybrid ch s) := by
  refine ⟨fun n => loop n (fun t u => feedSynth ch (tab 32 fun sb => rd (rd (rd u.tr.hy ch) sb) t) u) s, rfl, rfl,
    fun i _ => ?_⟩
  dsimp only
  rw [loop_succ]
  exact feedSynth_fedOnce ..

theorem loop_one {σ : Type} (f : Nat → σ → σ) (s : σ) : loop 1 f s = f 0 s := rfl

theorem loop_two {σ : Type} (f : Nat → σ → σ) (s : σ) : loop 2 f s = f 1 (f 0 s) := rfl

/-- The stages of a frame with one channel. -/
theorem granuleStages_one {gr : Nat} {s : State} (h : s.nch = 1) :
    granuleStages gr s =
      feedHybrid 0 (hybrid (blockKind ((requantize gr 0 s).granule gr 0)) 0 (requantize gr 0 s)) := by
  unfold granuleStages
  simp only [h, loop_one, OfNat.one_ne_ofNat, if_false]

/-- The stages of a frame with two channels. -/
theorem granuleStages_two {gr : Nat} {s a b : State} (h : s.nch = 2)
    (ha : a = stereo gr (requantize gr 1 (requantize gr 0 s))) (hb : b = hybrid (blockKind (a.granule gr 0)) 0 a) :
    granuleStages gr s = feedHybrid 1 (feedHybrid 0 (hybrid (blockKind (b.granule gr 1)) 1 b)) := by
  subst ha hb
  unfold granuleStages
  simp only [h, loop_two, if_true]

/-! ## The lines of a granule (R321, R333) -/

/-- Reading scale factors changes no length (R340: only `preflag`). -/
theorem part23Length_factorStart (gr ch r c : Nat) (s : State) :
    ((s.factorStart gr ch).granule r c).part23Length = (s.granule r c).part23Length := by
  unfold State.factorStart
  dsimp only
  rw [clearFactors_eq]
  split
  · rfl
  · show (rd (rd (upd s.tr.si.g gr fun row => wr row ch _) r) c).part23Length = (rd (rd s.tr.si.g r) c).part23Length
    rw [rd_upd]
    split
    · rename_i h
      rw [rd_wr]
      split
      · rename_i k
        rw [← h.1, ← k.1]
        rfl
      · rw [h.1]
    · rfl

/-- Decoding a granule-channel changes no length. -/
theorem part23Length_decodeLines (under : Bool) (gr ch p r c : Nat) (s : State) :
    ((decodeLines under gr ch p s).granule r c).part23Length = (s.granule r c).part23Length := by
  cases under with
  | true => rfl
  | false =>
    cases hchecks : granuleChecks gr ch p s with
    | some e =>
      rw [decodeLines_failed hchecks]
      rfl
    | none =>
      have hsi : (decodeLines false gr ch p s).tr.si = ((setMdPos p s).factorStart gr ch).tr.si := by
        rw [decodeLines_passed hchecks, huffDecode_si, readScaleFactors_si]
      unfold State.granule
      rw [hsi]
      exact part23Length_factorStart gr ch r c (setMdPos p s)

/-- The place of a granule-channel depends on the number of channels and the lengths (R333). -/
theorem bitOffset_congr {s t : State} (hfrm : t.frm = s.frm)
    (h : ∀ r c, (t.granule r c).part23Length = (s.granule r c).part23Length) (gr ch : Nat) :
    t.bitOffset gr ch = s.bitOffset gr ch := by
  unfold State.bitOffset
  rw [nch_of_frm hfrm]
  simp only [h]

theorem decodeLines_frm (under : Bool) (gr p : Nat) {ch : Nat} (hch : ch < 2) (s : State) :
    (decodeLines under gr ch p s).frm = s.frm := by
  rw [(decodeLines_frame under gr p hch s).frame]

/-- The lines of a granule, channel after channel, before its stages. -/
def granuleLines (under : Bool) (gr n : Nat) (s : State) : State :=
  loop n (fun ch u => decodeLines under gr ch (u.bitOffset gr ch) u) s

theorem decodeGranule_lines (under : Bool) (gr : Nat) (s : State) :
    decodeGranule under gr s = granuleStages gr (granuleLines under gr s.nch s) := rfl

/-- The place of the second channel is the same before and after the first is decoded. -/
theorem granuleLines_two (under : Bool) (gr : Nat) (s : State) :
    granuleLines under gr 2 s =
      decodeLines under gr 1 (s.bitOffset gr 1) (decodeLines under gr 0 (s.bitOffset gr 0) s) := by
  have hplace : (decodeLines under gr 0 (s.bitOffset gr 0) s).bitOffset gr 1 = s.bitOffset gr 1 :=
    bitOffset_congr (decodeLines_frm under gr _ (by decide) s)
      (fun r c => part23Length_decodeLines under gr 0 _ r c s) gr 1
  rw [← hplace]
  rfl

/-! ## When a warning stands (R486) -/

/-- If each round leaves no warning exactly if none stood before and Q, so does the loop. -/
theorem loop_first_eq_zero {Q : Nat → State → Prop} {f : Nat → State → State} {n : Nat} {s : State}
    (h : ∀ i < n, ∀ t, t = loop i f s → ((f i t).st.first = 0 ↔ t.st.first = 0 ∧ Q i t)) :
    (loop n f s).st.first = 0 ↔ s.st.first = 0 ∧ ∀ i < n, Q i (loop i f s) := by
  induction n with
  | zero => simp
  | succ n ih =>
    rw [loop_succ, h n (Nat.lt_succ_self n) _ rfl, ih fun i hi => h i (Nat.lt_succ_of_lt hi), and_assoc]
    exact and_congr_right fun _ => ⟨fun ⟨hlow, hn⟩ i hi => by
        obtain hlt | rfl := Nat.lt_succ_iff_lt_or_eq.mp hi
        · exact hlow i hlt
        · exact hn,
      fun hall => ⟨fun i hi => hall i (Nat.lt_succ_of_lt hi), hall n (Nat.lt_succ_self n)⟩⟩

/-- Where no warning stands afterwards, none stood before, and `ST` is what it was. -/
theorem StatusKept.first_eq_zero_iff {s t : State} (h : StatusKept s t) :
    t.st.first = 0 ↔ s.st.first = 0 ∧ t.st = s.st := by
  constructor
  · intro h0
    have hst : t.st = s.st := h.resolve_right fun hne => hne h0
    exact ⟨hst ▸ h0, hst⟩
  · rintro ⟨h0, hst⟩
    rwa [hst]

/-- A granule leaves no warning exactly if none stood before and none of its channels warned. -/
theorem decodeGranule_first {under : Bool} {gr : Nat} {s : State} (hnch : s.nch ≤ 2) :
    (decodeGranule under gr s).st.first = 0 ↔
      s.st.first = 0 ∧ ∀ ch < s.nch, ∀ x, x = granuleLines under gr ch s →
        (decodeLines under gr ch (x.bitOffset gr ch) x).st = x.st := by
  rw [decodeGranule_lines, (stagesFrame_granuleStages gr _).first, granuleLines,
    loop_first_eq_zero (Q := fun ch t => (decodeLines under gr ch (t.bitOffset gr ch) t).st = t.st)
      fun ch hch t _ => (decodeLines_frame under gr _ (by omega) t).st.first_eq_zero_iff]
  exact and_congr_right fun _ => forall₂_congr fun ch _ => ⟨fun h x hx => hx ▸ h, fun h => h _ rfl⟩

theorem decodeGranule_frm (under : Bool) (gr : Nat) (s : State) : (decodeGranule under gr s).frm = s.frm :=
  (granular_decodeGranule under gr s).frame.frm

/-- The granules of a frame leave no warning exactly if none stood before and no granule-channel warned. -/
theorem granules_first {under : Bool} {n : Nat} {s : State} (hnch : s.nch ≤ 2) :
    (loop n (decodeGranule under) s).st.first = 0 ↔
      s.st.first = 0 ∧ ∀ gr < n, ∀ ch < s.nch, ∀ x, x = granuleLines under gr ch (loop gr (decodeGranule under) s) →
        (decodeLines under gr ch (x.bitOffset gr ch) x).st = x.st := by
  have hfrm (i : Nat) : (loop i (decodeGranule under) s).nch = s.nch :=
    nch_of_frm (loop_fixes State.frm (decodeGranule_frm under) i s)
  rw [loop_first_eq_zero (Q := fun gr t => ∀ ch < s.nch, ∀ x, x = granuleLines under gr ch t →
    (decodeLines under gr ch (x.bitOffset gr ch) x).st = x.st)]
  rintro i - t rfl
  rw [decodeGranule_first (by rw [hfrm]; exact hnch), hfrm]

/-! ## Silent granules (R332) -/

/-- Every channel below n is silent, and beside the registers of the lines nothing has changed. -/
structure SilentBelow (n : Nat) (s t : State) : Prop where
  silent : ∀ ch < n, rd t.tr.nz ch = 0 ∧ ∀ k < 576, rd (rd t.tr.is ch) k = 0
  frame : t = { s with tr := { s.tr with nz := t.tr.nz, is := t.tr.is, scf := t.tr.scf, ill := t.tr.ill } }

theorem granuleLines_silent (gr : Nat) {n : Nat} (hn : n ≤ 2) (s : State) : SilentBelow n s (granuleLines true gr n s) := by
  refine loop_induct (P := fun i t => SilentBelow i s t) ⟨fun ch h => absurd h (Nat.not_lt_zero ch), rfl⟩
    fun i t hi ht => ?_
  have hsilence := silence_silent (ch := i) (by omega) t
  refine ⟨fun ch hch => ?_, ?_⟩
  · obtain hlt | rfl := Nat.lt_succ_iff_lt_or_eq.mp hch
    · obtain ⟨hnz, his, -⟩ := hsilence.other ch (by omega) (by omega)
      refine ⟨hnz.trans (ht.silent ch hlt).1, fun k hk => ?_⟩
      rw [decodeLines_silent, his]
      exact (ht.silent ch hlt).2 k hk
    · exact ⟨hsilence.nz, hsilence.lines⟩
  · rw [decodeLines_silent, silence_frame, hsilence.tr, ht.frame]

/-- A silent granule leaves silent lines, and records no warning. -/
theorem decodeGranule_silent (gr : Nat) {s : State} (hnch : s.nch ≤ 2) :
    (∀ ch < s.nch, rd (decodeGranule true gr s).tr.nz ch = 0 ∧ ∀ k < 576, rd (rd (decodeGranule true gr s).tr.is ch) k = 0) ∧
      (decodeGranule true gr s).st.first = s.st.first ∧ (decodeGranule true gr s).st.gerr = s.st.gerr := by
  have hlines := granuleLines_silent gr hnch s
  have hst : (granuleLines true gr s.nch s).st = s.st := by rw [hlines.frame]
  obtain ⟨hfirst, hgerr, -, his, hnz⟩ := stagesFrame_granuleStages gr (granuleLines true gr s.nch s)
  rw [decodeGranule_lines, hfirst, hgerr, his, hnz, hst]
  exact ⟨hlines.silent, rfl, rfl⟩

/-- Silent granules, one at least, leave silent lines, and record no warning. -/
theorem granules_silent {n : Nat} {s : State} (hnch : s.nch ≤ 2) :
    (0 < n → ∀ ch < s.nch, rd (loop n (decodeGranule true) s).tr.nz ch = 0 ∧
        ∀ k < 576, rd (rd (loop n (decodeGranule true) s).tr.is ch) k = 0) ∧
      (loop n (decodeGranule true) s).st.first = s.st.first ∧ (loop n (decodeGranule true) s).st.gerr = s.st.gerr := by
  have hall := loop_induct (n := n) (f := decodeGranule true) (s := s)
    (P := fun i t => t.frm = s.frm ∧ (0 < i → ∀ ch < s.nch, rd t.tr.nz ch = 0 ∧ ∀ k < 576, rd (rd t.tr.is ch) k = 0) ∧
      t.st.first = s.st.first ∧ t.st.gerr = s.st.gerr)
    ⟨rfl, fun h => absurd h (Nat.lt_irrefl 0), rfl, rfl⟩ fun i t _ ⟨hfrm, _, hfirst, hgerr⟩ => by
      have hn : t.nch = s.nch := nch_of_frm hfrm
      obtain ⟨hsilent, hfirst', hgerr'⟩ := decodeGranule_silent i (s := t) (hn ▸ hnch)
      rw [hn] at hsilent
      exact ⟨(decodeGranule_frm true i t).trans hfrm, fun _ => hsilent, hfirst'.trans hfirst, hgerr'.trans hgerr⟩
  exact hall.2

/-- A zero line is requantised to +0.0 (R392). -/
theorem requantize_zero_line {gr ch k : Nat} {s : State} (hch : ch < 2) (hk : k < 576) (h : rd (rd s.tr.is ch) k = 0) :
    rd (rd (requantize gr ch s).tr.xr ch) k = Machine.Num.zero := by
  rw [requantize_line s hch hk, h]
  exact powerLaw_zero _ _

/-! ## The frame around the granules (R321, R331 to R334) -/

/-- A body that was run to its end ends by what holds there. -/
theorem Act.ends_of_ok {α : Type} {a : Act α} {s t : State} {v : α} {Q : α → State → Prop} {E : Code → State → Prop}
    (h : a s = .ok v t) : Ends a Q E s ↔ Q v t := by
  unfold Ends
  rw [h]

/-- The frame body in `FB`, with its cursor after the check word (R137). -/
def afterCheckWord (s : State) : State :=
  { frameStart s with fb := { (frameStart s).fb with pos := if s.hdr.fields.protection = 0 then 16 else 0 } }

theorem frameStart_fb (s : State) : (frameStart s).fb = { bytes := s.bodyBytes, pos := 0 } := by rw [frameStart_eq]

theorem frameStart_protection (s : State) : (frameStart s).hdr.fields.protection = s.hdr.fields.protection := by
  rw [frameStart_eq]
  rfl

theorem afterCheckWord_fb (s : State) :
    (afterCheckWord s).fb = { bytes := s.bodyBytes, pos := if s.hdr.fields.protection = 0 then 16 else 0 } := by
  rw [afterCheckWord, frameStart_fb]

/-- With room for it the check word is skipped. -/
theorem skipCheckWord_frameStart {s : State} (hroom : FbRoom 16 (frameStart s)) :
    skipCheckWord (frameStart s) = .ok () (afterCheckWord s) := by
  have hends : Ends skipCheckWord (fun _ t => t = afterCheckWord s) (fun _ _ => False) (frameStart s) := by
    unfold skipCheckWord afterCheckWord
    rw [ends_bind, ends_get, frameStart_protection]
    by_cases hprot : s.hdr.fields.protection = 0
    · rw [if_pos hprot, if_pos hprot, ends_bind, fbBits_ends, if_neg (Nat.not_lt.mpr hroom.1), ends_pure, frameStart_fb]
      rfl
    · rw [if_neg hprot, if_neg hprot, ends_pure]
      have hfb : { (frameStart s).fb with pos := 0 } = (frameStart s).fb := by rw [frameStart_fb]
      exact congrArg (fun fb => { frameStart s with fb := fb }) hfb.symm
  obtain ⟨_, t, hok, rfl⟩ := hends.exists_ok fun _ _ h => h
  exact hok

/-- The side information of the frame is read in w: it is complete, and nothing but it and `FB.pos` has changed. -/
structure SideParsed (s w : State) : Prop where
  parse : parseSideInfo (afterCheckWord s) = .ok () w
  frame : w = { afterCheckWord s with fb := w.fb, tr := { (afterCheckWord s).tr with si := w.tr.si } }
  bytes : w.fb.bytes = s.bodyBytes
  begin_eq : w.tr.si.mainDataBegin.toNat = s.mainDataBegin

theorem frameStart_frm (s : State) : (frameStart s).frm = s.frm := by rw [frameStart_eq]

theorem frameStart_st (s : State) : (frameStart s).st = (startCommand s).st := by rw [frameStart_eq]

section
variable {s w : State}

theorem nch_one_or_two (hs : Inv s) (hr : FrameReady s) : s.nch = 1 ∨ s.nch = 2 := by
  unfold State.nch
  obtain h | h := channels_of_held hs.held hr.valid <;> rw [h]
  · exact .inl rfl
  · exact .inr rfl

/-- The layer decoder of a Layer III frame parses the side information and goes on to the granules. -/
theorem decodeLayer_three (hs : Inv s) (hr : FrameReady s) (hl : s.frm.layer = 3) :
    ∃ w, SideParsed s w ∧ decodeLayer s.frm.layer.toNat (frameStart s) = .ok () (decodeMain3 w) := by
  have hroom := frameStart_room hs.held hr.valid hl
  have hskip := skipCheckWord_frameStart (hroom.mono (Nat.le_add_right 16 _))
  have hleft := (fits_skipCheckWord _ _ hroom).of_ok hskip
  obtain ⟨_, w, hparse, -⟩ := (parseSideInfo_fits (s := afterCheckWord s) (m := 0) hleft).exists_ok fun _ _ h => h
  have hnch : (afterCheckWord s).nch = 1 ∨ (afterCheckWord s).nch = 2 := by
    rw [nch_of_frm (t := afterCheckWord s) (frameStart_frm s)]
    exact nch_one_or_two hs hr
  obtain ⟨hframe, hfb, hbegin, -⟩ := ((parseSideInfo_reads rfl hnch hleft.2).of_ok hparse).fields
  refine ⟨w, ⟨hparse, hframe, by rw [hfb, afterCheckWord_fb], ?_⟩, ?_⟩
  · have hpos : (if s.hdr.fields.protection = 0 then 16 else 0 : BitVec 32).toNat =
        if s.hdr.fields.protection = 0 then 16 else 0 := by split <;> rfl
    have hversion : (afterCheckWord s).frm.version = s.frm.version := congrArg Frm.version (frameStart_frm s)
    rw [hbegin, afterCheckWord_fb, hpos, hversion, State.mainDataBegin]
    simp only [decide_eq_true_eq]
  · have hlayer : decodeLayer s.frm.layer.toNat = decode3 := by rw [hl]; rfl
    have hends : Ends decode3 (fun _ t => t = decodeMain3 w) (fun _ _ => False) (frameStart s) := by
      unfold decode3
      rw [ends_bind, ends_of_ok hskip, ends_bind, ends_of_ok hparse, ends_modify]
    obtain ⟨_, t, hok, rfl⟩ := hends.exists_ok fun _ _ h => h
    rw [hlayer]
    exact hok

namespace SideParsed

variable (h : SideParsed s w)
include h

theorem frm : w.frm = s.frm := by
  rw [h.frame]
  exact frameStart_frm s

theorem st : w.st = (startCommand s).st := by
  rw [h.frame]
  exact frameStart_st s

theorem res (hl : s.frm.layer = 3) : w.res = s.reservoir := by
  rw [h.frame]
  exact frameStart_res hl

/-- `W` is the reservoir followed by the frame's own main-data area (R331). -/
theorem workingReservoir (hl : s.frm.layer = 3) : w.workingReservoir = s.reservoir ++ s.mainData := by
  have hhdr : w.hdr.fields = s.hdr.fields := by
    rw [h.frame]
    show (frameStart s).hdr.fields = _
    rw [frameStart_eq]
    rfl
  have hoff : w.mdOff = s.mdOff := by
    unfold State.mdOff
    rw [hhdr, h.frm]
  unfold State.workingReservoir State.mainData
  rw [h.res hl, h.bytes, hoff]

/-- The frame under-runs if the reservoir does not hold what it refers to (R332). -/
theorem underRun (hl : s.frm.layer = 3) : w.underRun = decide (s.reservoir.length < s.mainDataBegin) := by
  unfold State.underRun
  rw [h.res hl, h.begin_eq]

theorem reservoirStep_eq (hl : s.frm.layer = 3) :
    reservoirStep w = { w with
      st := (reservoirStep w).st
      res := (s.reservoir ++ s.mainData).drop ((s.reservoir ++ s.mainData).length - 511)
      tr := { w.tr with md := (reservoirStep w).tr.md } } := by
  have hres : lastN resKeep w.workingReservoir =
      (s.reservoir ++ s.mainData).drop ((s.reservoir ++ s.mainData).length - 511) := by rw [h.workingReservoir hl]; rfl
  rw [Machine.reservoirStep_eq, hres]
  cases w.underRun <;> rfl

/-- The main-data window of a frame whose bytes are there (R333). -/
theorem window (hl : s.frm.layer = 3) (hin : s.mainDataBegin ≤ s.reservoir.length) :
    w.window =
      { bytes := (s.reservoir ++ s.mainData).drop (s.reservoir.length - s.mainDataBegin)
        base := BitVec.ofNat 32 (s.reservoir.length - s.mainDataBegin)
        len := BitVec.ofNat 32 (s.mainDataBegin + s.mainData.length)
        pos := w.tr.md.pos } := by
  have hlen : ((s.reservoir ++ s.mainData).drop (s.reservoir.length - s.mainDataBegin)).length =
      s.mainDataBegin + s.mainData.length := by
    rw [List.length_drop, List.length_append]
    omega
  unfold State.window
  rw [h.workingReservoir hl, h.res hl, h.begin_eq]
  dsimp only
  rw [hlen]

end SideParsed

/-- A frame that under-runs records the warning and has no window (R332). -/
theorem reservoirStep_under (h : w.underRun = true) :
    Warned .reservoirUnderrun w (reservoirStep w) ∧ (reservoirStep w).tr.md = w.tr.md := by
  rw [Warned, reservoirStep_eq, if_pos h]
  simp only [State.withRes_fields]
  exact ⟨rfl, rfl⟩

/-- Another frame makes its window and records nothing (R333). -/
theorem reservoirStep_window (h : w.underRun = false) :
    (reservoirStep w).st = w.st ∧ (reservoirStep w).tr.md = w.window := by
  rw [reservoirStep_eq, if_neg (by rw [h]; decide)]
  simp only [State.withRes_fields, State.withTr_fields, and_self]

theorem reservoirStep_frm (w : State) : (reservoirStep w).frm = w.frm := (granular_reservoirStep w).frame.frm

/-- `DECODE_FRAME` of a Layer III frame: after the side information and the reservoir its granules in order. -/
theorem exec_decodeFrame_three (hs : Inv s) (hr : FrameReady s) (hl : s.frm.layer = 3) :
    ∃ w, SideParsed s w ∧
      exec .decodeFrame s = .next (endCommand .ok (s.frm.spf.setWidth 32)
        (forgetFb (loop (if s.frm.version = 1 then 2 else 1)
          (decodeGranule (decide (s.reservoir.length < s.mainDataBegin))) (reservoirStep w)))) := by
  obtain ⟨w, hw, hok⟩ := decodeLayer_three hs hr hl
  refine ⟨w, hw, ?_⟩
  have hngr : w.ngr = if s.frm.version = 1 then 2 else 1 := ngr_of_frm hw.frm
  rw [exec_decodeFrame_of_ok hs.br hr hok, decodeMain3, hngr, hw.underRun hl]

/-- The warning of a frame is the first of its granules and of its reservoir step (R486). -/
theorem endCommand_forgetFb_warn (e : Code) (v : BitVec 32) (u : State) :
    (endCommand e v (forgetFb u)).st.warn = u.st.first := rfl

end

/-- Settles O34: the stages unfold in their order, and a warning stands at the end exactly if one was recorded. -/
theorem layerThreeGranulesAreDecoded : Obligations.LayerThreeGranulesAreDecoded := by
  unfold Obligations.LayerThreeGranulesAreDecoded
  refine ⟨fun gr s a b c => ⟨?_, ?_, fun _ => ?_⟩, fun under gr s p hnch hp => ?_, ?_⟩
  · rintro hnch rfl rfl
    rw [granuleStages_one hnch]
    exact feedHybrid_fedBy ..
  · rintro hnch ha hb rfl
    rw [granuleStages_two hnch ha hb]
    exact ⟨_, feedHybrid_fedBy .., feedHybrid_fedBy ..⟩
  · exact ⟨(stagesFrame_granuleStages gr s).first, (stagesFrame_granuleStages gr s).gerr⟩
  · have hplace (ch : Nat) : p ch = s.bitOffset gr ch := hp ch
    rw [decodeGranule_lines, hplace, hplace]
    obtain h | h := hnch
    · rw [if_pos h, h]
      rfl
    · rw [if_neg (by omega), h, granuleLines_two]
  · rintro s under ngr hs hr hl hunder rfl
    obtain ⟨w, hw, hexec⟩ := exec_decodeFrame_three hs hr hl
    rw [← hunder] at hexec
    have hrun : w.underRun = under := (hw.underRun hl).trans hunder.symm
    have hnch : (reservoirStep w).nch = s.nch := nch_of_frm ((reservoirStep_frm w).trans hw.frm)
    have hle : (reservoirStep w).nch ≤ 2 := by
      rw [hnch]
      have := nch_one_or_two hs hr
      omega
    refine ⟨_, reservoirStep w, afterCheckWord s, w, hexec, rfl, hw.parse, hw.reservoirStep_eq hl,
      fun h => reservoirStep_under (hrun.trans h), fun h => ?_, rfl, ?_⟩
    · obtain ⟨hst, hmd⟩ := reservoirStep_window (hrun.trans h)
      refine ⟨hst, hmd.trans (hw.window hl ?_)⟩
      rw [h] at hunder
      exact Nat.not_lt.mp (of_decide_eq_false hunder.symm)
    · rw [endCommand_forgetFb_warn, granules_first hle, hnch]
      cases under with
      | false =>
        have hfirst : (reservoirStep w).st.first = 0 := by
          rw [(reservoirStep_window hrun).1, hw.st]
          rfl
        simp only [hfirst, true_and]
        rfl
      | true =>
        have hfirst : (reservoirStep w).st.first ≠ 0 := by
          rw [(reservoirStep_under hrun).1, hw.st]
          exact (by decide : Code.reservoirUnderrun.toByte ≠ 0)
        exact iff_of_false (fun h => hfirst h.1) fun h => nomatch h.1

/-- Settles O30: with the under-run every granule is silent, and the warning of the reservoir step is the only one. -/
theorem underRunSilencesTheFrame : Obligations.UnderRunSilencesTheFrame := by
  unfold Obligations.UnderRunSilencesTheFrame
  refine ⟨?_, fun gr s hnch => ?_, fun s hs hr hl hshort => ?_⟩
  · rintro gr ch p s t hch rfl
    obtain ⟨hnz, hlines, hlong, hshort, hother, htr⟩ := silence_silent hch s
    exact ⟨hnz, hlines, hlong, hshort, hother, congrArg (fun tr => { s with tr := tr }) htr⟩
  · have hlines := granuleLines_silent gr hnch s
    refine ⟨_, decodeGranule_lines true gr s, fun ch hch => ?_, hlines.frame⟩
    obtain ⟨hnz, his⟩ := hlines.silent ch hch
    exact ⟨hnz, his, fun k hk => requantize_zero_line (by omega) hk (his k hk)⟩
  · obtain ⟨w, hw, hexec⟩ := exec_decodeFrame_three hs hr hl
    rw [decide_eq_true hshort] at hexec
    have hrun : w.underRun = true := (hw.underRun hl).trans (decide_eq_true hshort)
    have hfrm : (reservoirStep w).frm = s.frm := (reservoirStep_frm w).trans hw.frm
    have hwarned : Warned .reservoirUnderrun (frameStart s) (reservoirStep w) := by
      rw [Warned, (reservoirStep_under hrun).1, hw.st, frameStart_st]
    have hfirst : (reservoirStep w).st.first = Code.reservoirUnderrun.toByte := by
      rw [hwarned, frameStart_st]
      rfl
    have hgerr : (reservoirStep w).st.gerr = if s.st.gerr = BitVec.allOnes 32 then s.st.gerr else s.st.gerr + 1 := by
      rw [hwarned, frameStart_st]
      rfl
    have hnch : (reservoirStep w).nch = s.nch := nch_of_frm hfrm
    obtain ⟨hsilent, hfirst', hgerr'⟩ := granules_silent (n := if s.frm.version = 1 then 2 else 1)
      (s := reservoirStep w) (by have := nch_one_or_two hs hr; omega)
    refine ⟨_, reservoirStep w, hexec, rfl, hfirst'.trans hfirst, hgerr'.trans hgerr, rfl, hwarned, hfrm, ?_⟩
    rw [hnch] at hsilent
    exact hsilent (by split <;> decide)

end Sys2Proof.Machine
end

section
/-! PROOFS. The words of pairs and quadruples: the printed codebooks, linbits and signs (R362, R364, R365, R368, R369). -/

-- One theorem after another: threads that wait for each other exhaust the memory limit with their stacks.
set_option Elab.async false

namespace Sys2Proof.Machine

/-! ## The printed codebooks (R364, R368) -/

/-- Settles O57: each book of the defaults is a printed list, which is checked entry against entry. -/
theorem printedBooksArePrefixFree : Obligations.PrintedBooksArePrefixFree := by
  unfold Obligations.PrintedBooksArePrefixFree PrefixFree
  refine ⟨by decide +kernel, fun sel book hbook => ?_⟩
  subst hbook
  revert sel
  decide +kernel

/-! ## Reads that end inside the granule-channel and the window (R365) -/

/-- What was read, if it ends at or before bit m. -/
def within {α : Type} (m : Nat) (r : α × Nat) : Option (α × Nat) := if r.2 ≤ m then some r else none

section
variable {α β : Type} {m : Nat} {a : α × Nat}

theorem within_of_le (h : a.2 ≤ m) : within m a = some a := if_pos h

/-- Two reads, one after the other, end inside exactly if the later one does. -/
theorem within_bind {b : β × Nat} {k : α × Nat → Option (β × Nat)} (hab : a.2 ≤ b.2) (hk : a.2 ≤ m → k a = within m b) :
    (within m a).bind k = within m b := by
  by_cases ha : a.2 ≤ m
  · rw [within_of_le ha, Option.bind_some, hk ha]
  · rw [within, if_neg ha, within, if_neg (by omega), Option.bind_none]

/-- A last step that reads nothing. -/
theorem within_bind_some (f : α → β) : ((within m a).bind fun r => some (f r.1, r.2)) = within m (f a.1, a.2) :=
  within_bind (Nat.le_refl _) fun h => (within_of_le (a := (f a.1, a.2)) h).symm

end

section
variable {md : MainData} {stop p : Nat}

theorem mdTake_eq_within (md : MainData) (stop p n : Nat) :
    mdTake md stop p n = within (min stop (8 * md.len.toNat)) (bitsAt md.bytes p n, p + n) := by
  simp only [mdTake, within, le_min_iff]

/-- The end of the window is an end like that of the granule-channel. -/
theorem lookupFrom_min_window {α : Type} (book : List (CodeWord α)) (fuel n w : Nat) :
    lookupFrom book md (min stop (8 * md.len.toNat)) fuel n w p = lookupFrom book md stop fuel n w p := by
  induction fuel generalizing n w p with
  | zero => rfl
  | succ fuel ih => simp only [lookupFrom, mdTake_eq_within, min_assoc, min_self, ih]

/-- A word that is found ends inside. -/
theorem lookup_inside {α : Type} {book : List (CodeWord α)} {v : α} {q : Nat} (h : lookup book md stop p = some (v, q)) :
    q ≤ min stop (8 * md.len.toNat) := by
  rw [lookup, ← lookupFrom_min_window] at h
  exact (lookupFrom_bounds h).2

/-! ## One value of a pair (R365) -/

/-- Linbits first, then the value with its sign. -/
theorem signedValue_linbits (linbits : Nat) (md : MainData) (stop x p : Nat) :
    signedValue linbits md stop x p =
      if 0 < linbits ∧ x = 15 then (mdTake md stop p linbits).bind fun r => signedValue 0 md stop (x + r.1) r.2
      else signedValue 0 md stop x p := by
  unfold signedValue
  split <;> rfl

theorem codedValue_linbits (linbits : Nat) (md : MainData) (x p : Nat) :
    codedValue linbits md x p =
      if 0 < linbits ∧ x = 15 then codedValue 0 md (x + bitsAt md.bytes p linbits) (p + linbits)
      else codedValue 0 md x p := by
  unfold codedValue
  split <;> rfl

theorem codedValue_zero (linbits : Nat) (md : MainData) (p : Nat) : codedValue linbits md 0 p = (0, p) := by
  simp [codedValue, bitsAt_zero]

/-- A value without linbits that is not 0 has a sign. -/
theorem codedValue_sign {x : Nat} (hx : x ≠ 0) (md : MainData) (p : Nat) :
    codedValue 0 md x p = (if bitsAt md.bytes p 1 = 1 then -(x : Int) else x, p + 1) := by
  simp [codedValue, bitsAt_zero, hx]

theorem le_codedValue (linbits : Nat) (md : MainData) (x p : Nat) : p ≤ (codedValue linbits md x p).2 := by
  simp only [codedValue]
  split_ifs <;> omega

/-- A value that starts inside is read exactly if it ends inside. -/
theorem signedValue_eq_within (hp : p ≤ min stop (8 * md.len.toNat)) (linbits x : Nat) :
    signedValue linbits md stop x p = within (min stop (8 * md.len.toNat)) (codedValue linbits md x p) := by
  have plain {x p : Nat} (hp : p ≤ min stop (8 * md.len.toNat)) :
      signedValue 0 md stop x p = within (min stop (8 * md.len.toNat)) (codedValue 0 md x p) := by
    by_cases hx : x = 0
    · subst hx
      rw [codedValue_zero, within_of_le hp]
      rfl
    · rw [codedValue_sign hx]
      simp only [signedValue, Nat.lt_irrefl, false_and, if_false, Option.bind_eq_bind, Option.bind_some, hx,
        mdTake_eq_within]
      exact within_bind_some fun b => if b = 1 then -(x : Int) else x
  rw [signedValue_linbits, codedValue_linbits]
  split
  · rw [mdTake_eq_within]
    exact within_bind (le_codedValue 0 md _ _) plain
  · exact plain hp

/-! ## The words (R365, R369) -/

/-- A codebook's pair, then its two values one after the other. -/
theorem pairWord_eq_bind {c : Config} {t b linbits : Nat} (ht : tableSelectRow t = some (b, linbits)) (md : MainData)
    (stop p : Nat) :
    pairWord c t md stop p = (lookup (pairBook c b) md stop p).bind fun r =>
      (signedValue linbits md stop r.1.1 r.2).bind fun v =>
        (signedValue linbits md stop r.1.2 v.2).bind fun w => some ((v.1, w.1), w.2) := by
  have ht0 : t ≠ 0 := by
    rintro rfl
    exact nomatch ht
  simp only [pairWord, ht0, if_false, ht]
  rfl

/-- A pair is its two values, the second after the first. -/
theorem pairWord_of_lookup {c : Config} {t b linbits x y q : Nat} (ht : tableSelectRow t = some (b, linbits))
    (h : lookup (pairBook c b) md stop p = some ((x, y), q)) {v w : Int × Nat} (hv : v = codedValue linbits md x q)
    (hw : w = codedValue linbits md y v.2) :
    pairWord c t md stop p = within (min stop (8 * md.len.toNat)) ((v.1, w.1), w.2) := by
  rw [pairWord_eq_bind ht, h, Option.bind_some, signedValue_eq_within (lookup_inside h), ← hv]
  refine within_bind (hw ▸ le_codedValue linbits md y v.2) fun hv' => ?_
  rw [signedValue_eq_within hv', ← hw]
  exact within_bind_some fun z => (v.1, z)

theorem pairWord_of_no_word {c : Config} {t b linbits : Nat} (ht : tableSelectRow t = some (b, linbits))
    (h : lookup (pairBook c b) md stop p = none) : pairWord c t md stop p = none := by
  rw [pairWord_eq_bind ht, h, Option.bind_none]

theorem le_codedSign (md : MainData) (bit p : Nat) : p ≤ (codedSign md bit p).2 := by
  unfold codedSign
  split <;> dsimp only <;> omega

/-- A sign is read exactly if its value is 1 and it ends inside. -/
theorem quadSign_eq_within (hp : p ≤ min stop (8 * md.len.toNat)) (n i : Nat) :
    quadSign md stop (n.testBit i) p = within (min stop (8 * md.len.toNat)) (codedSign md (n / 2 ^ i % 2) p) := by
  rw [Nat.testBit_eq_decide_div_mod_eq]
  obtain hbit | hbit := Nat.mod_two_eq_zero_or_one (n / 2 ^ i)
  · rw [hbit]
    exact (within_of_le (a := ((0 : Int), p)) hp).symm
  · rw [hbit]
    simp only [quadSign, codedSign, mdTake_eq_within]
    exact within_bind_some fun b => if b = 1 then (-1 : Int) else 1

theorem quadWord_of_no_word {c : Config} {sel : BitVec 1} (h : lookup (quadBook c sel) md stop p = none) :
    quadWord c sel md stop p = none := by
  simp [quadWord, h]

/-- A quadruple is its four signs, one after another. -/
theorem quadWord_of_lookup {c : Config} {sel : BitVec 1} {n q : Nat}
    (h : lookup (quadBook c sel) md stop p = some (n, q)) {v w x y : Int × Nat} (hv : v = codedSign md (n / 8 % 2) q)
    (hw : w = codedSign md (n / 4 % 2) v.2) (hx : x = codedSign md (n / 2 % 2) w.2) (hy : y = codedSign md (n % 2) x.2) :
    quadWord c sel md stop p = within (min stop (8 * md.len.toNat)) ((v.1, w.1, x.1, y.1), y.2) := by
  have hvw : v.2 ≤ w.2 := hw ▸ le_codedSign ..
  have hwx : w.2 ≤ x.2 := hx ▸ le_codedSign ..
  have hxy : x.2 ≤ y.2 := hy ▸ le_codedSign ..
  simp only [quadWord, h, Option.bind_eq_bind, Option.bind_some, quadSign_eq_within (lookup_inside h)]
  rw [show codedSign md (n / 2 ^ 3 % 2) q = v from hv.symm]
  refine within_bind (by dsimp only; omega) fun hv' => ?_
  rw [quadSign_eq_within hv', show codedSign md (n / 2 ^ 2 % 2) v.2 = w from hw.symm]
  refine within_bind (by dsimp only; omega) fun hw' => ?_
  rw [quadSign_eq_within hw', show codedSign md (n / 2 ^ 1 % 2) w.2 = x from hx.symm]
  refine within_bind (by dsimp only; omega) fun hx' => ?_
  rw [quadSign_eq_within hx', Nat.pow_zero, Nat.div_one, ← hy]
  exact within_bind_some fun z => (v.1, w.1, x.1, z)

end

/-- Settles O51: the rows are read off, and each word is its codebook's value, then the reads that must end inside. -/
theorem pairAndQuadWordsAreRead : Obligations.PairAndQuadWordsAreRead := by
  unfold Obligations.PairAndQuadWordsAreRead
  refine ⟨by decide, fun c => ⟨?_, rfl, rfl⟩, fun c md stop p => ⟨rfl, fun t b linbits ht => ?_, fun sel => ?_⟩⟩
  · simp only [List.cons_append, List.nil_append, List.forall_mem_cons]
    exact ⟨rfl, rfl, rfl, rfl, rfl, rfl, rfl, rfl, rfl, rfl, rfl, rfl, rfl, rfl, rfl, nofun⟩
  · exact ⟨pairWord_of_no_word ht, fun x y q h => pairWord_of_lookup ht h rfl rfl⟩
  · exact ⟨quadWord_of_no_word, fun n q h v w x y hv hw hx hy => quadWord_of_lookup h hv hw hx hy⟩

end Sys2Proof.Machine
end

section
/-! PROOFS. One code word at the sequencer: the lines that it stores, and the end of a granule-channel (R361, R372, R375). -/

-- One theorem after another: threads that wait for each other exhaust the memory limit with their stacks.
set_option Elab.async false

namespace Sys2Proof.Machine

/-! ## Stored lines (R361) -/

/-- Where the lines of one word come to lie. -/
theorem rd_setLines {ch : Nat} (hch : ch < 2) (line : Nat) (vs : List Int) (i : Nat) (s : State) {k : Nat} (hk : k < 576) :
    rd (rd (setLines ch line (vs.zipIdx i) s).tr.is ch) k =
      if line + i ≤ k ∧ k < line + i + vs.length then BitVec.ofInt 16 (vs.getD (k - (line + i)) 0)
      else rd (rd s.tr.is ch) k := by
  induction vs generalizing i s with
  | nil =>
    rw [if_neg (by simp)]
    rfl
  | cons v vs ih =>
    have hline : rd (rd (setLine ch (line + i) v s).tr.is ch) k =
        if k = line + i then BitVec.ofInt 16 v else rd (rd s.tr.is ch) k := by
      simp only [setLine, State.withTr, rd_upd, hch, and_true, if_true, rd_wr, hk, eq_comm]
    rw [show setLines ch line ((v :: vs).zipIdx i) s = setLines ch line (vs.zipIdx (i + 1)) (setLine ch (line + i) v s)
      from rfl, ih, hline, List.length_cons]
    rcases Nat.lt_trichotomy k (line + i) with hlt | rfl | hgt
    · rw [if_neg (by omega), if_neg (by omega), if_neg (by omega)]
    · rw [if_neg (by omega), if_pos rfl, if_pos (by omega), Nat.sub_self]
      rfl
    · have hnext : k - (line + i) = k - (line + (i + 1)) + 1 := by omega
      rw [if_neg (by omega : k ≠ line + i), hnext, List.getD_cons_succ]
      exact if_congr (by omega) rfl rfl

theorem linesStored_storeLines (vs : List Int) (p : Nat) (s : State) : LinesStored vs s (storeLines vs p s) :=
  ⟨fun _ hk => rd_setLines s.seq.ch.isLt s.seq.line vs 0 s hk, fun c _ hc => ((linesFrame_storeLines vs p s).other c hc).1⟩

/-- Beside the lines a stored word moves the cursor and the sequencer. -/
theorem storeLines_rest (vs : List Int) (p : Nat) (s : State) :
    (storeLines vs p s).tr.md = { s.tr.md with pos := BitVec.ofNat 32 p } ∧ (storeLines vs p s).tr.nz = s.tr.nz ∧
      (storeLines vs p s).st = s.st := by
  have hset (l : List (Int × Nat)) (t : State) :
      (setLines s.seqCh s.seq.line l t).tr.md = t.tr.md ∧ (setLines s.seqCh s.seq.line l t).tr.nz = t.tr.nz ∧
        (setLines s.seqCh s.seq.line l t).st = t.st := by
    induction l generalizing t with
    | nil => exact ⟨rfl, rfl, rfl⟩
    | cons v l ih => exact ih _
  obtain ⟨hmd, hnz, hst⟩ := hset vs.zipIdx s
  exact ⟨congrArg (fun md : MainData => { md with pos := BitVec.ofNat 32 p }) hmd, hnz, hst⟩

/-! ## The end of a granule-channel (R361, R372, R374) -/

/-- m is one more than the index of the last of the first n lines that is not 0, or 0. -/
def EndsNonZero (v : Vector (BitVec 16) 576) (n m : Nat) : Prop :=
  m ≤ n ∧ (∀ k < n, m ≤ k → rd v k = 0) ∧ (m ≠ 0 → rd v (m - 1) ≠ 0)

theorem lastNonZero_ends (v : Vector (BitVec 16) 576) : EndsNonZero v 576 (lastNonZero v) := by
  have hloop : lastNonZero v = loop 576 (fun k m => if rd v k = 0 then m else k + 1) 0 := rfl
  rw [hloop]
  refine loop_induct (P := EndsNonZero v) ⟨Nat.le_refl 0, fun _ hk => absurd hk (Nat.not_lt_zero _), fun h => absurd rfl h⟩ ?_
  intro n m _ ⟨hle, hzero, hlast⟩
  by_cases hn : rd v n = 0
  · rw [if_pos hn]
    refine ⟨by omega, fun k hk hmk => ?_, hlast⟩
    obtain hlt | rfl := Nat.lt_succ_iff_lt_or_eq.mp hk
    · exact hzero k hlt hmk
    · exact hn
  · rw [if_neg hn]
    exact ⟨Nat.le_refl _, fun k hk hmk => absurd hmk (by omega), fun _ => hn⟩

/-- The lines of the sequencer's channel when it ends at its next line. -/
def State.endLines (s : State) : Vector (BitVec 16) 576 :=
  tab 576 fun k => if k < s.seq.line then rd (rd s.tr.is s.seqCh) k else 0

theorem rd_endLines (s : State) {k : Nat} (hk : k < 576) :
    rd s.endLines k = if k < s.seq.line then rd (rd s.tr.is s.seqCh) k else 0 := rd_tab _ k hk

theorem finishLines_eq (s : State) :
    finishLines s = (setMdPos s.seq.lim (s.withTr { s.tr with
      is := wr s.tr.is s.seqCh s.endLines
      nz := wr s.tr.nz s.seqCh (BitVec.ofNat 10 (lastNonZero s.endLines)) })).withSeq { s.seq with done := true } := rfl

theorem finishLines_is (s : State) : rd (finishLines s).tr.is s.seqCh = s.endLines := rd_wr_self _ _ _ s.seq.ch.isLt

theorem linesFinished_finishLines (s : State) : LinesFinished s (finishLines s) := by
  obtain ⟨hle, hzero, hlast⟩ := lastNonZero_ends s.endLines
  have hnz : rd (finishLines s).tr.nz s.seqCh = BitVec.ofNat 10 (lastNonZero s.endLines) := rd_wr_self _ _ _ s.seq.ch.isLt
  have hnat : (rd (finishLines s).tr.nz s.seqCh).toNat = lastNonZero s.endLines := by
    rw [hnz, BitVec.toNat_ofNat, Nat.mod_eq_of_lt (by omega)]
  refine ⟨fun k hk => ?_, ?_, fun hne => ?_, fun c _ hc => (linesFrame_finishLines s).other c hc, rfl, rfl⟩
  · rw [finishLines_is]
    exact rd_endLines s hk
  · rw [hnat, finishLines_is]
    exact hzero
  · rw [hnat, finishLines_is]
    refine hlast fun h0 => hne ?_
    rw [hnz, h0]
    rfl

/-! ## What a step leaves alone -/

section
variable {s t : State} (h : LinesFrame s t)
include h

theorem LinesFrame.tr : t.tr = { s.tr with is := t.tr.is, nz := t.tr.nz, md := t.tr.md } := congrArg State.tr h.frame

theorem LinesFrame.state : t = { s with st := t.st, tr := t.tr, seq := t.seq } :=
  h.frame.trans (congrArg (fun tr => { s with st := t.st, tr := tr, seq := t.seq }) h.tr.symm)

end

/-- Quadruples warn of nothing (R375). -/
theorem quadStep_st (sel : BitVec 1) (s : State) : (quadStep sel s).st = s.st := by
  obtain ⟨-, h⟩ | ⟨-, r, -, h⟩ | h := quadStep_cases sel s <;> rw [h]
  · exact (storeLines_rest _ r.2 s).2.2
  · rfl

/-! ## The rows of the table selects (R362, R368) -/

/-- Settles O47: each row is one pair step, which idles, stores the pair or ends the granule-channel with a warning. -/
theorem tableSelectDecodesOnePair : Obligations.TableSelectDecodesOnePair := by
  unfold Obligations.TableSelectDecodesOnePair
  intro s row hrow
  have hexec : exec row.2 s = .next (pairStep row.1 s) := by
    revert row
    simp only [List.cons_append, List.nil_append, List.forall_mem_cons]
    exact ⟨rfl, rfl, rfl, rfl, rfl, rfl, rfl, rfl, rfl, rfl, rfl, rfl, rfl, rfl, rfl, rfl, rfl, rfl, rfl, rfl, rfl, rfl,
      rfl, rfl, rfl, rfl, rfl, rfl, rfl, rfl, nofun⟩
  have hf := linesFrame_pairStep row.1 s
  refine ⟨_, hexec, hf.state, hf.tr, fun hidle => ?_, fun hdone hline => ⟨fun x y q hword => ?_, fun hword => ?_⟩⟩
  · rw [pairStep_eq, if_pos hidle]
  all_goals
    have hbusy : ¬(s.seq.done = true ∨ 574 < s.seq.line) := by simp [hdone, hline]
    rw [pairStep_eq, if_neg hbusy, hword]
  · obtain ⟨hmd, hnz, hst⟩ := storeLines_rest [x, y] q s
    exact ⟨linesStored_storeLines [x, y] q s, hmd, hnz, rfl, hst⟩
  · exact ⟨linesFinished_finishLines _, rfl⟩

/-- Settles O49: each row is one quadruple step, which idles, stores the quadruple or ends the granule-channel. -/
theorem count1DecodesOneQuadruple : Obligations.Count1DecodesOneQuadruple := by
  unfold Obligations.Count1DecodesOneQuadruple
  intro s row hrow
  have hexec : exec row.2 s = .next (quadStep row.1 s) := by
    revert row
    simp only [List.forall_mem_cons]
    exact ⟨rfl, rfl, nofun⟩
  have hf := linesFrame_quadStep row.1 s
  have hstate : quadStep row.1 s = { s with tr := (quadStep row.1 s).tr, seq := (quadStep row.1 s).seq } := by
    refine hf.state.trans ?_
    rw [quadStep_st]
  have hstep := quadStep_eq row.1 s
  refine ⟨_, hexec, hstate, hf.tr, fun hdone => ?_, fun hdone hpos hline => ?_, fun hdone hend => ?_⟩
  · rw [hstep, if_pos hdone]
  · rw [if_neg (by simp [hdone]), if_pos ⟨hpos, hline⟩] at hstep
    rw [hstep]
    refine ⟨fun v w x y q hword => ?_, fun hword => ?_⟩ <;> rw [hword]
    · obtain ⟨hmd, hnz, -⟩ := storeLines_rest [v, w, x, y] q s
      exact ⟨linesStored_storeLines [v, w, x, y] q s, hmd, hnz, rfl⟩
    · exact linesFinished_finishLines s
  · rw [hstep, if_neg (by simp [hdone]), if_neg (by omega)]
    exact linesFinished_finishLines s

end Sys2Proof.Machine
end

section
/-! PROOFS. `HuffDecode`: the pairs of the regions, then the quadruples, then zeros (R361, R363, R372, R374, R375). -/

-- One theorem after another: threads that wait for each other exhaust the memory limit with their stacks.
set_option Elab.async false

namespace Sys2Proof.Machine

/-! ## How a granule-channel ends (R361) -/

theorem wr_wr {α : Type} {n : Nat} (v : Vector α n) (i : Nat) (x y : α) : wr (wr v i x) i y = wr v i y :=
  Vector.setIfInBounds_setIfInBounds ..

/-- To end a granule-channel twice is to end it once: its lines are zero from the next one on already. -/
theorem finishLines_finishLines (s : State) : finishLines (finishLines s) = finishLines s := by
  have hlines : (finishLines s).endLines = s.endLines := by
    refine vec_ext fun k hk => ?_
    have hline : rd (finishLines s).endLines k =
        if k < s.seq.line then rd (rd (finishLines s).tr.is s.seqCh) k else 0 := rd_endLines _ hk
    rw [hline, finishLines_is, rd_endLines s hk]
    by_cases hlt : k < s.seq.line <;> simp only [hlt, if_true, if_false]
  rw [finishLines_eq (finishLines s), hlines, finishLines_eq s]
  generalize s.endLines = lines
  generalize BitVec.ofNat 10 (lastNonZero lines) = nz
  simp only [setMdPos, State.withTr, State.withSeq, State.seqCh, wr_wr]

theorem quadRegion_finishLines (sel : BitVec 1) (fuel : Nat) (s : State) :
    quadRegion sel fuel (finishLines s) = finishLines s := by
  cases fuel with
  | zero => exact finishLines_finishLines s
  | succ fuel => exact if_pos rfl

/-- A granule-channel that is finished was ended by `finishLines`. -/
def EndedLines (s : State) : Prop := s.seq.done = true → ∃ u, s = finishLines u

theorem endedLines_storeLines {s : State} (h : s.seq.done = false) (vs : List Int) (p : Nat) :
    EndedLines (storeLines vs p s) := fun hd => Bool.noConfusion (h.symm.trans hd)

theorem endedLines_pairStep (t : Nat) {s : State} (h : EndedLines s) : EndedLines (pairStep t s) := by
  obtain hs | ⟨hdone, r, -, hs⟩ | hs := pairStep_cases t s <;> rw [hs]
  · exact h
  · exact endedLines_storeLines hdone _ _
  · exact fun _ => ⟨_, rfl⟩

theorem endedLines_quadStep (sel : BitVec 1) {s : State} (h : EndedLines s) : EndedLines (quadStep sel s) := by
  obtain ⟨-, hs⟩ | ⟨hdone, r, -, hs⟩ | hs := quadStep_cases sel s <;> rw [hs]
  · exact h
  · exact endedLines_storeLines hdone _ _
  · exact fun _ => ⟨_, rfl⟩

theorem quadRegion_ended (sel : BitVec 1) (fuel : Nat) {s : State} (h : EndedLines s) :
    ∃ u, quadRegion sel fuel s = finishLines u := by
  induction fuel generalizing s with
  | zero => exact ⟨s, rfl⟩
  | succ fuel ih =>
    rw [quadRegion_succ]
    split
    · exact h ‹_›
    · exact ih (endedLines_quadStep sel h)

theorem huffDecode_ended (gr ch stop : Nat) (s : State) : ∃ u, huffDecode gr ch stop s = finishLines u := by
  have hbig : EndedLines (bigValues gr ch stop s) :=
    loop_induct (P := fun _ t => EndedLines t) (fun h => nomatch h) fun _ _ _ ht => endedLines_pairStep _ ht
  exact quadRegion_ended _ _ hbig

/-- `NZ` is one more than the index of the last non-zero line (R372). -/
theorem huffDecode_nz {ch : Nat} (hch : ch < 2) (gr stop : Nat) (s : State) :
    (∀ k < 576, (rd (huffDecode gr ch stop s).tr.nz ch).toNat ≤ k → rd (rd (huffDecode gr ch stop s).tr.is ch) k = 0) ∧
      (rd (huffDecode gr ch stop s).tr.nz ch ≠ 0 →
        rd (rd (huffDecode gr ch stop s).tr.is ch) ((rd (huffDecode gr ch stop s).tr.nz ch).toNat - 1) ≠ 0) := by
  obtain ⟨u, hu⟩ := huffDecode_ended gr ch stop s
  have huch : u.seqCh = ch := by
    rw [← (linesFrame_finishLines u).ch, ← hu, (linesFrame_huffDecode gr ch stop s).ch, startLines_seqCh hch]
  obtain ⟨-, hzero, hlast, -⟩ := linesFinished_finishLines u
  rw [hu, ← huch]
  exact ⟨hzero, hlast⟩

/-! ## The lines decoded so far -/

/-- The first n lines of the granule-channel that starts in s are stored in u as `line` says, the cursor is at p, and
nothing has ended it. -/
structure Decoded (line : Nat → BitVec 16) (s : State) (n p : Nat) (u : State) : Prop where
  frame : LinesFrame s u
  done : u.seq.done = false
  next : u.seq.line = n
  pos : u.tr.md.pos.toNat = p
  st : u.st = s.st
  lines : ∀ k < n, rd (rd u.tr.is s.seqCh) k = line k

section
variable {line : Nat → BitVec 16} {s u : State} {n p q : Nat}

/-- A pair word ends before `end`, or where it starts. -/
theorem pairWord_le_max {c : Config} {t : Nat} {md : MainData} {stop : Nat} {v : Int × Int}
    (h : pairWord c t md stop p = some (v, q)) : q ≤ max p stop := by
  by_cases ht : t = 0
  · obtain ⟨-, rfl⟩ : (0, 0) = v ∧ p = q := by simpa [pairWord, ht] using h
    exact Nat.le_max_left p stop
  · obtain ⟨_, _, hrest⟩ := Option.bind_eq_some_iff.mp ((if_neg ht).symm.trans h)
    obtain ⟨⟨_, _⟩, hlookup, -⟩ := Option.bind_eq_some_iff.mp hrest
    have := lookupFrom_bounds hlookup
    have := (pairWord_bounds h).2
    omega

namespace Decoded

theorem lt (h : Decoded line s n p u) : p < 2 ^ 32 := h.pos ▸ u.tr.md.pos.isLt

theorem cfg (h : Decoded line s n p u) : u.cfg = s.cfg := by rw [h.frame.frame]

/-- The window has the bits that it had. -/
theorem sameBits (h : Decoded line s n p u) (stop : Nat) : SameBits u.tr.md s.tr.md 0 stop := by
  rw [h.frame.md]
  exact ⟨rfl, fun _ _ _ => rfl⟩

theorem pairWord_eq (h : Decoded line s n p u) (t : Nat) :
    pairWord u.cfg t u.tr.md u.seq.lim u.tr.md.pos.toNat = pairWord s.cfg t s.tr.md s.seq.lim p := by
  rw [h.cfg, h.frame.lim, h.pos, pairWord_congr _ t (h.sameBits _) (Nat.zero_le p)]

theorem quadWord_eq (h : Decoded line s n p u) (sel : BitVec 1) :
    quadWord u.cfg sel u.tr.md u.seq.lim u.tr.md.pos.toNat = quadWord s.cfg sel s.tr.md s.seq.lim p := by
  rw [h.cfg, h.frame.lim, h.pos, quadWord_congr _ sel (h.sameBits _) (Nat.zero_le p)]

/-- The next lines stored. -/
theorem store (h : Decoded line s n p u) {vs : List Int} (hn : n + vs.length ≤ 576) (hq : q < 2 ^ 32)
    (hvs : ∀ i < vs.length, line (n + i) = BitVec.ofInt 16 (vs.getD i 0)) :
    Decoded line s (n + vs.length) q (storeLines vs q u) := by
  obtain ⟨hmd, -, hst⟩ := storeLines_rest vs q u
  refine ⟨h.frame.trans _ _ _ (linesFrame_storeLines vs q u), h.done, congrArg (· + vs.length) h.next, ?_, hst.trans h.st,
    fun k hk => ?_⟩
  · rw [hmd]
    exact Nat.mod_eq_of_lt hq
  · have hline := (linesStored_storeLines vs q u).1 k (by omega)
    rw [h.frame.ch, h.next] at hline
    rw [hline]
    by_cases hnew : n ≤ k
    · rw [if_pos ⟨hnew, hk⟩, ← hvs (k - n) (by omega), Nat.add_sub_cancel' hnew]
    · rw [if_neg (by omega)]
      exact h.lines k (by omega)

/-- The lines when the granule-channel ends here. -/
theorem finish (h : Decoded line s n p u) {k : Nat} (hk : k < 576) :
    rd (rd (finishLines u).tr.is s.seqCh) k = if k < n then line k else 0 := by
  have hline := (linesFinished_finishLines u).1 k hk
  rw [h.frame.ch, h.next] at hline
  rw [hline]
  split
  · exact h.lines k ‹_›
  · rfl

/-! ## One word more -/

theorem pairStep_word (h : Decoded line s n p u) (hlim : s.seq.lim < 2 ^ 32) (hn : n ≤ 574) {t : Nat} {x y : Int}
    (hword : pairWord s.cfg t s.tr.md s.seq.lim p = some ((x, y), q)) (hx : line n = BitVec.ofInt 16 x)
    (hy : line (n + 1) = BitVec.ofInt 16 y) : Decoded line s (n + 2) q (pairStep t u) := by
  have hq := pairWord_le_max hword
  have hp := h.lt
  rw [pairStep_eq, if_neg (by simp [h.done, h.next, hn]), h.pairWord_eq, hword]
  refine h.store (vs := [x, y]) (by simpa using hn) (by omega) fun i hi => ?_
  match i, hi with
  | 0, _ => exact hx
  | 1, _ => exact hy

theorem pairStep_fails (h : Decoded line s n p u) (hn : n ≤ 574) {t : Nat}
    (hword : pairWord s.cfg t s.tr.md s.seq.lim p = none) : pairStep t u = finishLines (warn .huffmanTableError u) := by
  rw [pairStep_eq, if_neg (by simp [h.done, h.next, hn]), h.pairWord_eq, hword, Option.elim_none]

theorem quadStep_word (h : Decoded line s n p u) (hlim : s.seq.lim < 2 ^ 32) (hp : p < s.seq.lim) (hn : n ≤ 572)
    {sel : BitVec 1} {z : Int × Int × Int × Int} (hword : quadWord s.cfg sel s.tr.md s.seq.lim p = some (z, q))
    (hz : ∀ i < 4, line (n + i) = BitVec.ofInt 16 ([z.1, z.2.1, z.2.2.1, z.2.2.2].getD i 0)) :
    Decoded line s (n + 4) q (quadStep sel u) := by
  have hq := quadWord_bounds hword
  rw [quadStep_eq, if_neg (by simp [h.done]), h.pos, h.frame.lim, h.next, if_pos ⟨hp, hn⟩, ← h.frame.lim, ← h.pos,
    h.quadWord_eq, hword]
  exact h.store (vs := [z.1, z.2.1, z.2.2.1, z.2.2.2]) (by simpa using hn) (by omega) hz

theorem quadStep_ends (h : Decoded line s n p u) {sel : BitVec 1}
    (hend : s.seq.lim ≤ p ∨ 572 < n ∨ quadWord s.cfg sel s.tr.md s.seq.lim p = none) :
    quadStep sel u = finishLines u := by
  rw [quadStep_eq, if_neg (by simp [h.done]), h.quadWord_eq, h.pos, h.frame.lim, h.next]
  by_cases hroom : p < s.seq.lim ∧ n ≤ 572
  · obtain hlim | hline | hword := hend
    · omega
    · omega
    · rw [if_pos hroom, hword, Option.elim_none]
  · rw [if_neg hroom]

/-! ## All words (R361) -/

/-- The first n pairs. -/
theorem pairs (h : Decoded line s 0 p u) (hlim : s.seq.lim < 2 ^ 32) {table q : Nat → Nat} {x y : Nat → Int} {n : Nat}
    (hn : n ≤ 288) (hq : q 0 = p)
    (hword : ∀ k < n, pairWord s.cfg (table k) s.tr.md s.seq.lim (q k) = some ((x k, y k), q (k + 1)))
    (hline : ∀ k < 2 * n, line k = BitVec.ofInt 16 (if k % 2 = 0 then x (k / 2) else y (k / 2))) :
    Decoded line s (2 * n) (q n) (loop n (fun i => pairStep (table i)) u) := by
  refine loop_induct (P := fun k t => Decoded line s (2 * k) (q k) t) (hq ▸ h) fun k t hk ht => ?_
  refine ht.pairStep_word hlim (by omega) (hword k hk) ?_ ?_
  · rw [hline (2 * k) (by omega), if_pos (by omega), Nat.mul_div_cancel_left k Nat.two_pos]
  · rw [hline (2 * k + 1) (by omega), if_neg (by omega), show (2 * k + 1) / 2 = k by omega]

/-- The quadruples until the region is over. -/
theorem quads {m fuel : Nat} {sel : BitVec 1} {r : Nat → Nat} {z : Nat → Int × Int × Int × Int}
    (h : Decoded line s n (r 0) u) (hlim : s.seq.lim < 2 ^ 32) (hfuel : m < fuel)
    (hword : ∀ j < m, r j < s.seq.lim ∧ n + 4 * j ≤ 572 ∧
      quadWord s.cfg sel s.tr.md s.seq.lim (r j) = some (z j, r (j + 1)))
    (hend : s.seq.lim ≤ r m ∨ 572 < n + 4 * m ∨ quadWord s.cfg sel s.tr.md s.seq.lim (r m) = none)
    (hline : ∀ j < m, ∀ i < 4,
      line (n + 4 * j + i) = BitVec.ofInt 16 ([(z j).1, (z j).2.1, (z j).2.2.1, (z j).2.2.2].getD i 0)) :
    ∃ v, quadRegion sel fuel u = finishLines v ∧ Decoded line s (n + 4 * m) (r m) v := by
  induction m generalizing n r z u fuel with
  | zero =>
    obtain ⟨fuel, rfl⟩ := Nat.exists_eq_add_of_lt hfuel
    refine ⟨u, ?_, h⟩
    rw [quadRegion_succ, h.done, h.quadStep_ends hend]
    exact quadRegion_finishLines sel _ u
  | succ m ih =>
    obtain ⟨fuel, rfl⟩ := Nat.exists_eq_add_of_lt hfuel
    obtain ⟨hp, hroom, hfirst⟩ := hword 0 m.succ_pos
    have hnext : Decoded line s (n + 4) (r 1) (quadStep sel u) :=
      h.quadStep_word hlim hp hroom hfirst (hline 0 m.succ_pos)
    have hshift (j : Nat) : n + 4 * (j + 1) = n + 4 + 4 * j := by omega
    have hrest := ih (fuel := m + 1 + fuel) (r := fun j => r (j + 1)) (z := fun j => z (j + 1)) hnext (by omega)
      (fun j hj => hshift j ▸ hword (j + 1) (by omega)) (hshift m ▸ hend)
      (fun j hj => hshift j ▸ hline (j + 1) (by omega))
    rw [quadRegion_succ, h.done, hshift]
    exact hrest

end Decoded

end

/-- A finished granule-channel takes no more pairs. -/
theorem loop_pairStep_done {table : Nat → Nat} {m n : Nat} {s : State} (hmn : m ≤ n)
    (hdone : (loop m (fun i => pairStep (table i)) s).seq.done = true) :
    loop n (fun i => pairStep (table i)) s = loop m (fun i => pairStep (table i)) s := by
  induction n, hmn using Nat.le_induction with
  | base => rfl
  | succ n _ ih => rw [loop_succ, ih, pairStep_eq, if_pos (.inl hdone)]

/-! ## HuffDecode (R361, R363) -/

/-- The value of line k in the big-value region: of pair k / 2 the first or the second (R361). -/
def pairLine (x y : Nat → Int) (k : Nat) : BitVec 16 := BitVec.ofInt 16 (if k % 2 = 0 then x (k / 2) else y (k / 2))

/-- The value of the line that is i-th after the big-value region (R361). -/
def quadLine (z : Nat → Int × Int × Int × Int) (i : Nat) : BitVec 16 :=
  BitVec.ofInt 16 ([(z (i / 4)).1, (z (i / 4)).2.1, (z (i / 4)).2.2.1, (z (i / 4)).2.2.2].getD (i % 4) 0)

theorem quadLine_at (z : Nat → Int × Int × Int × Int) (j : Nat) {i : Nat} (hi : i < 4) :
    quadLine z (4 * j + i) = BitVec.ofInt 16 ([(z j).1, (z j).2.1, (z j).2.2.1, (z j).2.2.2].getD i 0) := by
  rw [quadLine, show (4 * j + i) / 4 = j by omega, show (4 * j + i) % 4 = i by omega]

theorem decoded_startLines (line : Nat → BitVec 16) (gr ch stop : Nat) (s : State) :
    Decoded line (startLines gr ch stop s) 0 s.tr.md.pos.toNat (startLines gr ch stop s) :=
  ⟨.refl _, rfl, rfl, rfl, rfl, nofun⟩

section
variable {gr ch stop r1 r2 n : Nat} {s : State} {table q : Nat → Nat} {x y : Nat → Int}
variable (hch : ch < 2) (hbig : (s.granule gr ch).bigValues.toNat ≤ 288) (hstop : stop < 2 ^ 32)
variable (hends : RegionEnds s.cfg s.frm.rate.toNat (s.granule gr ch) r1 r2)
variable (htable : ∀ i, table i = (if i < r1 then rd (s.granule gr ch).tableSelect 0
  else if i < r2 then rd (s.granule gr ch).tableSelect 1 else rd (s.granule gr ch).tableSelect 2).toNat)
variable (hq : q 0 = s.tr.md.pos.toNat)
variable (hword : ∀ k < n, pairWord s.cfg (table (2 * k)) s.tr.md stop (q k) = some ((x k, y k), q (k + 1)))

include hends htable in
/-- Each pair takes the codebook of the region in which its first line lies (R363). -/
theorem bigValues_eq_loop :
    bigValues gr ch stop s =
      loop (s.granule gr ch).bigValues.toNat (fun i => pairStep (table (2 * i))) (startLines gr ch stop s) := by
  simp only [bigValues, regionBounds_eq hends, htable, tableAt]

include hch hbig hstop hends htable hq hword

/-- A pair that fails ends the granule-channel with a warning (R375). -/
theorem huffDecode_pair_fails (hlt : n < (s.granule gr ch).bigValues.toNat)
    (hfail : pairWord s.cfg (table (2 * n)) s.tr.md stop (q n) = none) :
    Warned .huffmanTableError s (huffDecode gr ch stop s) ∧
      ∀ k < 576, rd (rd (huffDecode gr ch stop s).tr.is ch) k = if k < 2 * n then pairLine x y k else 0 := by
  have hpairs := (decoded_startLines (pairLine x y) gr ch stop s).pairs hstop (table := fun i => table (2 * i))
    (by omega) hq hword fun _ _ => rfl
  generalize hv : loop n (fun i => pairStep (table (2 * i))) (startLines gr ch stop s) = v at hpairs
  have hstep : loop (n + 1) (fun i => pairStep (table (2 * i))) (startLines gr ch stop s) =
      finishLines (warn .huffmanTableError v) := by
    rw [loop_succ, hv]
    exact hpairs.pairStep_fails (by omega) hfail
  have hdecode : huffDecode gr ch stop s = finishLines (warn .huffmanTableError v) := by
    rw [huffDecode_eq, bigValues_eq_loop hends htable,
      loop_pairStep_done (table := fun i => table (2 * i)) hlt (by rw [hstep]; rfl), hstep, quadRegion_finishLines]
  have hwarned : Warned .huffmanTableError v (huffDecode gr ch stop s) := by rw [hdecode]; rfl
  refine ⟨?_, fun k hk => ?_⟩
  · rwa [Warned, hpairs.st] at hwarned
  · have hline := hpairs.finish hk
    rw [startLines_seqCh hch] at hline
    rw [hdecode]
    exact hline

/-- After all pairs the quadruples follow, and zeros after them (R361, R372, R374). -/
theorem huffDecode_quads (hall : n = (s.granule gr ch).bigValues.toNat) {m : Nat} {z : Nat → Int × Int × Int × Int}
    {r : Nat → Nat} (hr : r 0 = q n)
    (hquad : ∀ j < m, r j < stop ∧ 2 * n + 4 * j ≤ 572 ∧
      quadWord s.cfg (s.granule gr ch).count1TableSelect s.tr.md stop (r j) = some (z j, r (j + 1)))
    (hend : stop ≤ r m ∨ 572 < 2 * n + 4 * m ∨
      quadWord s.cfg (s.granule gr ch).count1TableSelect s.tr.md stop (r m) = none) :
    (huffDecode gr ch stop s).st = s.st ∧
      ∀ k < 576, rd (rd (huffDecode gr ch stop s).tr.is ch) k =
        if k < 2 * n then pairLine x y k else if k < 2 * n + 4 * m then quadLine z (k - 2 * n) else 0 := by
  have hm : m < 145 := by
    cases m with
    | zero => decide
    | succ m => have := (hquad m m.lt_succ_self).2.1; omega
  have hpairs := (decoded_startLines (fun k => if k < 2 * n then pairLine x y k else quadLine z (k - 2 * n)) gr ch stop s).pairs
    hstop (table := fun i => table (2 * i)) (by omega) hq hword fun k hk => if_pos hk
  rw [hall, ← bigValues_eq_loop hends htable, ← hall, ← hr] at hpairs
  obtain ⟨v, hv, hquads⟩ := hpairs.quads hstop hm hquad hend fun j _ i hi => by
    rw [if_neg (by omega), show 2 * n + 4 * j + i - 2 * n = 4 * j + i by omega, quadLine_at z j hi]
  rw [huffDecode_eq, hv]
  refine ⟨hquads.st, fun k hk => ?_⟩
  have hline := hquads.finish hk
  rw [startLines_seqCh hch] at hline
  rw [hline]
  by_cases hlow : k < 2 * n
  · rw [if_pos (by omega), if_pos hlow, if_pos hlow]
  · rw [if_neg hlow, if_neg hlow]

end

/-- Settles O33: the decoded lines follow the words one by one, up to the failing pair or through the quadruples. -/
theorem huffmanRegionsAreDecoded : Obligations.HuffmanRegionsAreDecoded := by
  unfold Obligations.HuffmanRegionsAreDecoded
  rintro gr ch stop r1 r2 big s t g table - hch rfl rfl hbig hstop hends htable rfl
  have hframe := linesFrame_huffDecode gr ch stop s
  obtain ⟨hzero, hlast⟩ := huffDecode_nz hch gr stop s
  refine ⟨hframe.state, hframe.tr, huffDecode_md gr ch stop s, fun c _ hc => huffDecode_other hch hc gr stop s, hzero,
    hlast, fun n x y q _ hq hword => ⟨fun hlt hfail => ?_, fun hall m z r hr hquad hend => ?_⟩⟩
  · exact huffDecode_pair_fails hch hbig hstop hends htable hq hword hlt hfail
  · subst hall
    exact huffDecode_quads hch hbig hstop hends htable hq hword rfl hr hquad hend

end Sys2Proof.Machine
end

section
/-! PROOFS. Stereo: the position of each line, with long, short and mixed blocks, and what becomes of it (R400 to R410). -/

-- One theorem after another: threads that wait for each other exhaust the memory limit with their stacks.
set_option Elab.async false

namespace Sys2Proof.Machine

/-! ## One line (R400, R402, R406 to R408) -/

/-- A position and the illegal one, judged by the version of the frame (R407). -/
def State.judged (s : State) (f : Nat × Nat) : Position := position (s.frm.version = 1) f.1 f.2

theorem longPosition_eq (s : State) (gr sfb : Nat) : longPosition s gr sfb = s.judged (longFactors s gr sfb) := by
  have hsent : rightLong s gr sfb = (longFactors s gr sfb).1 := by
    simp only [rightLong, longFactors]
    cases blockKind (s.granule gr 1) with
    | mixed =>
      simp only [sendsLong, reduceCtorEq, false_or, true_and, ← Nat.not_le, ite_not]
      exact if_congr decide_eq_true_iff rfl rfl
    | normal | start | short | stop | reserved => simp [sendsLong]
  rw [longPosition, hsent]
  rfl

theorem shortPosition_eq (s : State) (w sfb : Nat) : shortPosition s w sfb = s.judged (shortFactors s w sfb) := rfl

/-- 2^(-1/2) is 2^(-2/4) (R408). -/
theorem intensityBase_eq (num : NumSystem) (c : BitVec 9) :
    intensityBase num (c.toNat % 2) =
      Num.pow num Num.two (Num.dyadic num (-1) (if c.getLsbD 0 then -1 else -2)) := by
  have hodd : c.getLsbD 0 = decide (c.toNat % 2 = 1) := by
    rw [BitVec.getLsbD, Nat.testBit_zero]
  have hhalf : Num.dyadic num (-2) (-2) = Num.dyadic num (-1) (-1) := by cases num <;> decide
  rw [hodd, intensityBase, pow2Quarter, pow2Quarter, hhalf]
  obtain h | h := Nat.mod_two_eq_zero_or_one c.toNat <;> simp [h]

/-- The model's line of `Stereo` is the one of R400, for a legal and for an illegal position. -/
theorem stereoLine_judged (s : State) (gr : Nat) (f : Option (Nat × Nat)) (a b : Sample) :
    stereoLine s gr (f.map s.judged) a b = stereoPair s gr f a b := by
  obtain _ | ⟨p, ill⟩ := f
  · rfl
  by_cases hv : s.frm.version = 1
  · simp only [stereoLine, stereoPair, State.judged, position, hv, Option.map_some, intensityV1, if_true, decide_true]
    obtain h | rfl | h := Nat.lt_trichotomy p 6
    · simp [h, Nat.ne_of_lt h, Nat.lt_succ_of_lt h, intensityRatio]
    · rfl
    · simp [Nat.not_lt.mpr (Nat.le_of_lt h), Nat.ne_of_gt h, Nat.not_lt.mpr h, midSide]
  · simp only [stereoLine, stereoPair, State.judged, position, hv, Option.map_some, if_false, decide_false,
      intensityBase_eq, intensityLsf]
    by_cases hill : p = ill
    · simp [hill, midSide]
    · obtain rfl | h0 := Nat.eq_zero_or_pos p
      · simp [hill]
      · obtain h | h := Nat.mod_two_eq_zero_or_one p <;> simp [hill, h, Nat.ne_of_gt h0]

/-! ## The whole stage (R400) -/

/-- The position of line k in the stereo stage of granule gr. -/
def State.stereoPosition (s : State) (gr k : Nat) : Option Position :=
  let kind := blockKind (s.granule gr 0)
  if s.isBit then
    intensityPosition s gr kind (rd (tab 3 (windowBound s (if kind = .mixed then 3 else 0))))
      (if kind = .mixed then mixedBound s else longBound s.cfg s.frm.rate.toNat (rd s.tr.nz 1).toNat) k
  else none

theorem stereo_off {gr : Nat} {s : State} (h : s.jointStereo = false) : stereo gr s = s := by simp [stereo, h]

/-- `Stereo` writes the lines and nothing else. -/
theorem stereo_frame (gr : Nat) (s : State) : stereo gr s = { s with tr := { s.tr with xr := (stereo gr s).tr.xr } } := by
  cases h : s.jointStereo with
  | false => rw [stereo_off h]
  | true => simp only [stereo, h]; rfl

section
variable {gr k : Nat} {s : State} (hj : s.jointStereo = true) (hk : k < 576)
include hj hk

theorem stereo_line :
    (rd (rd (stereo gr s).tr.xr 0) k, rd (rd (stereo gr s).tr.xr 1) k) =
      stereoLine s gr (s.stereoPosition gr k) (rd (rd s.tr.xr 0) k) (rd (rd s.tr.xr 1) k) := by
  have hmap (f : Sample × Sample → Sample) (v : Vector (Sample × Sample) 576) : rd (v.map f) k = f (rd v k) := by
    rw [rd_eq_get _ _ hk, rd_eq_get _ _ hk, Vector.getElem_map]
  have hchannels (x y : Vector Sample 576) : rd #v[x, y] 0 = x ∧ rd #v[x, y] 1 = y := ⟨rfl, rfl⟩
  simp only [stereo, hj, not_true, if_false, State.withTr_fields, hchannels, hmap, rd_tab _ _ hk, State.stereoPosition]

theorem stereoLine_of_position {f : Option (Nat × Nat)} (h : s.stereoPosition gr k = f.map s.judged) :
    StereoLine s (stereo gr s) gr f k := by
  rw [StereoLine, stereo_line hj hk, h, stereoLine_judged]

end

/-! ## Bands and boundaries (R391, R403 to R405) -/

/-- The lines of a short band lie between its ends (R391). -/
theorem inShort_bounds {c : Config} {rate sfb w k : Nat} (h : InShort c rate sfb w k) (hb : Ascending (sfbShort c rate)) :
    3 * (sfbShort c rate).getD sfb 0 ≤ k ∧ k < 3 * (sfbShort c rate).getD (sfb + 1) 0 := by
  obtain ⟨hs, hw, hlo, hhi⟩ := h
  have hwindows := Nat.mul_le_mul_right ((sfbShort c rate).getD (sfb + 1) 0 - (sfbShort c rate).getD sfb 0)
    (show w + 1 ≤ 3 from hw)
  have hmono := ascending_getD_le hb (Nat.le_succ sfb) (by rw [length_sfbShort]; omega)
  omega

/-- The smallest number in a range of which p holds, or its end. -/
theorem least_eq {lo hi b : Nat} {p : Nat → Bool} (hlo : lo ≤ b) (hhi : b ≤ hi) (hb : b < hi → p b = true)
    (hbelow : ∀ i, lo ≤ i → i < b → p i = false) : least lo hi p = b := by
  obtain ⟨d, rfl⟩ := Nat.exists_eq_add_of_le hlo
  obtain ⟨e, rfl⟩ := Nat.exists_eq_add_of_le hhi
  have hskip : ∀ i ∈ List.range d, (!p (lo + i)) = true := fun i hi => by
    rw [hbelow _ (by omega) (by have := List.mem_range.mp hi; omega), Bool.not_false]
  have hstop : ((List.range e).map (d + ·)).takeWhile (fun i => !p (lo + i)) = [] := by
    cases e with
    | zero => rfl
    | succ e => simp [List.range_succ_eq_map, hb (by omega)]
  rw [least, Nat.add_assoc, Nat.add_sub_cancel_left, List.range_add, List.takeWhile_append_of_pos hskip, hstop,
    List.append_nil, List.length_range]

theorem longBound_eq {s : State} {nz b : Nat} (h : LongBoundary s nz b) :
    longBound s.cfg s.frm.rate.toNat nz = b := by
  obtain ⟨hb, hstart, hbelow⟩ := h
  exact least_eq (Nat.zero_le b) hb (fun _ => decide_eq_true hstart)
    fun i _ hi => decide_eq_false (Nat.not_le.mpr (hbelow i hi))

/-- A window of a band is zero when each of its lines is. -/
theorem windowBandZero_iff {s : State} {w sfb : Nat} (hs : sfb < 13) (hw : w < 3) :
    windowBandZero s w sfb = true ↔ ∀ k, InShort s.cfg s.frm.rate.toNat sfb w k → rd (rd s.tr.is 1) k = 0 := by
  simp only [windowBandZero, List.all_eq_true, List.mem_range, rightZero, beq_iff_eq, InShort, hs, hw, true_and,
    Nat.add_one_mul]
  refine ⟨fun h k ⟨hlo, hhi⟩ => ?_, fun h f hf => h _ ⟨by omega, by omega⟩⟩
  obtain ⟨f, rfl⟩ := Nat.exists_eq_add_of_le hlo
  exact h f (by omega)

theorem windowBound_eq {s : State} {first w b : Nat} (hw : w < 3) (h : ShortBoundary s first w b) :
    windowBound s first w = b := by
  obtain ⟨hfirst, hb, hzero, hbefore⟩ := h
  refine least_eq hfirst hb (fun _ => ?_) fun i hi hib => ?_
  · refine List.all_eq_true.mpr fun i hi => ?_
    have hi := List.mem_range.mp hi
    exact (windowBandZero_iff (by omega) hw).mpr fun k => hzero _ k (by omega)
  · obtain ⟨k, hk, hne⟩ := hbefore (by omega)
    refine List.all_eq_false.mpr ⟨b - 1 - i, List.mem_range.mpr (by omega), fun hband => hne ?_⟩
    rw [Nat.add_sub_cancel' (by omega)] at hband
    exact (windowBandZero_iff (by omega) hw).mp hband k hk

/-- A scan that remembers the place after the last line that is not zero. -/
theorem foldl_lastNonZero {z : Nat → Bool} (n : Nat) {m : Nat} (hm : m ≤ n) (hzero : ∀ k, m ≤ k → k < n → z k = true)
    (hlast : m ≠ 0 → z (m - 1) = false) : (List.range n).foldl (fun m k => if z k then m else k + 1) 0 = m := by
  induction n with
  | zero => exact (Nat.le_zero.mp hm).symm
  | succ n ih =>
    rw [List.range_succ, List.foldl_append, List.foldl_cons, List.foldl_nil]
    obtain rfl | hlt := Nat.eq_or_lt_of_le hm
    · simp [show z n = false from hlast n.succ_ne_zero]
    · rw [if_pos (hzero n (by omega) n.lt_succ_self)]
      exact ih (by omega) fun k hk hkn => hzero k hk (by omega)

theorem mixedBound_eq {s : State} {nz b : Nat} (hnz : nz ≤ 36) (hzero : ∀ k, nz ≤ k → k < 36 → rd (rd s.tr.is 1) k = 0)
    (hlast : nz ≠ 0 → rd (rd s.tr.is 1) (nz - 1) ≠ 0) (hb : LongBoundary s nz b) : mixedBound s = b := by
  rw [mixedBound, foldl_lastNonZero 36 hnz (z := rightZero s) (fun k hk hk' => beq_iff_eq.mpr (hzero k hk hk'))
    fun h => beq_eq_false_iff_ne.mpr (hlast h)]
  exact longBound_eq hb

/-! ## The position of a line (R403 to R405) -/

theorem longLine_eq (s : State) (gr b sfb : Nat) :
    longLine s gr b sfb =
      (if sfb = 21 then (if b ≤ 20 then some (longFactors s gr 20) else none)
       else if b ≤ sfb then some (longFactors s gr sfb) else none).map s.judged := by
  simp only [longLine, longPosition_eq]
  split_ifs <;> rfl

theorem shortLine_eq (s : State) (b w sfb : Nat) :
    shortLine s b w sfb =
      (if sfb = 12 then (if b ≤ 11 then some (shortFactors s w 11) else none)
       else if b ≤ sfb then some (shortFactors s w sfb) else none).map s.judged := by
  simp only [shortLine, shortPosition_eq]
  split_ifs <;> rfl

section
variable {gr k : Nat} {s : State}

theorem stereoPosition_off (h : s.isBit = false) : s.stereoPosition gr k = none := by simp [State.stereoPosition, h]

variable (hi : s.isBit = true)
include hi

theorem stereoPosition_long (hs : blockKind (s.granule gr 0) ≠ .short) (hm : blockKind (s.granule gr 0) ≠ .mixed)
    {b sfb : Nat} (hb : LongBoundary s (rd s.tr.nz 1).toNat b) (hp : longPlace s.cfg s.frm.rate.toNat k = some sfb) :
    s.stereoPosition gr k = longLine s gr b sfb := by
  simp only [State.stereoPosition, hi, if_true, if_neg hm, longBound_eq hb]
  generalize blockKind (s.granule gr 0) = kind at hs hm
  cases kind with
  | short => exact absurd rfl hs
  | mixed => exact absurd rfl hm
  | normal | start | stop | reserved => simp only [intensityPosition, hp, Option.bind_some]

theorem stereoPosition_short {first : Nat} (hfirst : (blockKind (s.granule gr 0) = .short ∧ first = 0) ∨
      (blockKind (s.granule gr 0) = .mixed ∧ first = 3 ∧ 36 ≤ k)) {b w sfb : Nat} (hw : w < 3)
    (hb : ShortBoundary s first w b) (hp : shortPlace s.cfg s.frm.rate.toNat first k = some (sfb, w)) :
    s.stereoPosition gr k = shortLine s b w sfb := by
  obtain ⟨hkind, rfl⟩ | ⟨hkind, rfl, hk⟩ := hfirst
  · simp [State.stereoPosition, hi, hkind, intensityPosition, hp, rd_tab _ _ hw, windowBound_eq hw hb]
  · simp [State.stereoPosition, hi, hkind, intensityPosition, hk, hp, rd_tab _ _ hw, windowBound_eq hw hb]

variable (hkind : blockKind (s.granule gr 0) = .mixed) (hk : k < 36)
include hkind hk

/-- One window that is not zero in the short part keeps the long part of a mixed block free of intensity lines (R405). -/
theorem stereoPosition_mixed_none {w b : Nat} (hw : w < 3) (hb : ShortBoundary s 3 w b) (hne : b ≠ 3) :
    s.stereoPosition gr k = none := by
  have hbounds : ¬(windowBound s 3 0 = 3 ∧ windowBound s 3 1 = 3 ∧ windowBound s 3 2 = 3) := fun ⟨h0, h1, h2⟩ => by
    have hbound := windowBound_eq hw hb
    interval_cases w <;> omega
  simp [State.stereoPosition, hi, hkind, intensityPosition, Nat.not_le.mpr hk, hbounds]

theorem stereoPosition_mixed {b sfb : Nat} (hwindows : ∀ w < 3, ShortBoundary s 3 w 3) (hb : mixedBound s = b)
    (hp : longPlace s.cfg s.frm.rate.toNat k = some sfb) :
    s.stereoPosition gr k =
      (if b ≤ sfb ∧ sfb ≤ lastMixedLong s then some (longFactors s gr sfb) else none).map s.judged := by
  have hbound (w : Nat) (hw : w < 3) : windowBound s 3 w = 3 := windowBound_eq hw (hwindows w hw)
  simp [State.stereoPosition, hi, hkind, intensityPosition, Nat.not_le.mpr hk, hbound, hp, hb, longPosition_eq]

end

/-- Settles O55: with a table that rises, a line's band and the boundary give its position. -/
theorem stereoOfLongBlocks : Obligations.StereoOfLongBlocks := by
  unfold Obligations.StereoOfLongBlocks
  rintro gr s t rfl
  refine ⟨stereo_off, stereo_frame gr s, fun hj hi k hk => ?_, fun hj hi hs hm hb b hbound sfb k hk hin => ?_⟩
  · exact stereoLine_of_position hj hk (stereoPosition_off hi)
  · refine stereoLine_of_position hj hk ?_
    rw [stereoPosition_long hi hs hm hbound (longPlace_of_inLong hb hin), longLine_eq]

/-- Settles O56: each window's boundary gives the positions of its lines, and all three together the long part's. -/
theorem stereoOfShortBlocks : Obligations.StereoOfShortBlocks := by
  unfold Obligations.StereoOfShortBlocks
  rintro gr s t rate rfl rfl hj hi hlong hshort hend
  refine ⟨fun first hfirst b w hb sfb k hsfb hin => ?_, fun hkind _ => ⟨?_, ?_⟩⟩
  · obtain ⟨hlo, hhi⟩ := inShort_bounds hin hshort
    have hs : sfb < 13 := hin.1
    have hlast := ascending_getD_le hshort (show sfb + 1 ≤ 13 from hs) (by rw [length_sfbShort]; decide)
    have hstart := ascending_getD_le hshort hsfb (by rw [length_sfbShort]; omega)
    refine stereoLine_of_position hj (by omega) ?_
    rw [stereoPosition_short hi ?_ hin.2.1 hb (shortPlace_of_inShort hshort hsfb hin), shortLine_eq]
    exact hfirst.imp_right fun ⟨hkind, hthree, htwelve⟩ => ⟨hkind, hthree, by subst hthree; omega⟩
  · rintro ⟨w, hw, b, hb, hne⟩ k hk
    exact stereoLine_of_position hj (by omega) (stereoPosition_mixed_none hi hkind hk hw hb hne)
  · intro hwindows nz hnz hzero hlast b hb sfb k hk hin
    exact stereoLine_of_position hj (by omega) (stereoPosition_mixed hi hkind hk hwindows
      (mixedBound_eq hnz hzero hlast hb) (longPlace_of_inLong hlong hin))

end Sys2Proof.Machine
end

section
/-! PROOFS. A zero spectrum: every stage of a block kind maps zeros to +0.0, so the old tail plays out alone (R425, R427,
R430). -/

-- One theorem after another: threads that wait for each other exhaust the memory limit with their stacks.
set_option Elab.async false

namespace Sys2Proof.Machine

open Sys2Proof.Machine.Num (IsZero isZero_zero isZero_neg isZero_mul_left add_zero_isZero)

/-! ## Zero lines (R415, R418) -/

/-- An index outside the lines reads +0.0 as well. -/
theorem rd_zero_lines {x : Vector Sample 576} (hx : ∀ k < 576, rd x k = Machine.Num.zero) (k : Nat) :
    rd x k = Machine.Num.zero := by
  by_cases hk : k < 576
  · exact hx k hk
  · exact rd_out x k (Nat.not_lt.mp hk)

theorem rd_reordered_zero {x : Vector Sample 576} (hx : ∀ k, rd x k = Machine.Num.zero) (c : Config) (rate : Nat)
    (kind : BlockKind) : ∀ k < 576, rd (reordered c rate kind x) k = Machine.Num.zero := by
  intro k hk
  cases kind with
  | short | mixed => rw [reordered, rd_tab _ _ hk, hx]
  | normal | start | stop | reserved => exact hx k

/-- A butterfly of two zeros: `CS` has no sign, so its product is +0.0, which absorbs the other one. -/
theorem butterfly_zero (num : NumSystem) {i : Nat} (hi : i < 8) :
    Num.add num (Num.mul num Num.zero (coefCS num i)) (Num.mul num Num.zero (coefCA num i)) = Num.zero ∧
      Num.sub num (Num.mul num Num.zero (coefCS num i)) (Num.mul num Num.zero (coefCA num i)) = Num.zero := by
  have hca : IsZero (Num.mul num Num.zero (coefCA num i)) := isZero_mul_left num isZero_zero (coefCA_finite num i hi)
  rw [mul_zero_plain num (coefCS_plain num i hi)]
  exact ⟨add_zero_isZero num hca, add_zero_isZero num (isZero_neg hca)⟩

theorem aliasLine_zero (num : NumSystem) (last : Nat) {x : Vector Sample 576} (hx : ∀ k, rd x k = Machine.Num.zero)
    (k : Nat) : aliasLine num last x k = Machine.Num.zero := by
  simp only [aliasLine, hx]
  split
  · next habove => exact (butterfly_zero num habove.1).1
  · split
    · exact (butterfly_zero num (by omega)).2
    · rfl

/-! ## The transforms of zeros (R423, R425) -/

theorem subbandType_lt (kind : BlockKind) (sb : Nat) : kind.subbandType sb < 4 := by
  unfold BlockKind.subbandType
  split
  · decide
  · cases kind <;> decide

theorem shortValue_zero (num : NumSystem) {x : Nat → Sample} (hx : ∀ k, x k = Machine.Num.zero) (w : Nat) {i : Nat}
    (hi : i < 12) : shortValue num x w i = Machine.Num.zero := by
  rw [shortValue, sum_isZero _ _ _ fun k hk => ?_, mul_zero_plain num (winShort_plain num i hi)]
  rw [hx]
  exact isZero_mul_left num isZero_zero (imdctShort_finite num hi hk)

theorem rd_transformLong_zero (num : NumSystem) {bt : Nat} (hbt : bt < 4) {x : Nat → Sample}
    (hx : ∀ k, x k = Machine.Num.zero) {i : Nat} (hi : i < 36) : rd (transformLong num bt x) i = Machine.Num.zero := by
  rw [transformLong, rd_tab _ _ hi, sum_isZero _ _ _ fun k hk => ?_, mul_zero_plain num (winLong_plain num bt hbt i hi)]
  rw [hx]
  exact isZero_mul_left num isZero_zero (imdctLong_finite num hi hk)

/-- Each of the three short transforms adds +0.0 to +0.0. -/
theorem rd_transformShort_zero (num : NumSystem) {x : Nat → Sample} (hx : ∀ k, x k = Machine.Num.zero) {i : Nat}
    (hi : i < 36) : rd (transformShort num x) i = Machine.Num.zero := by
  rw [transformShort, rd_tab _ _ hi]
  refine loop_induct (P := fun _ acc => acc = Machine.Num.zero) rfl fun w acc _ hacc => ?_
  subst hacc
  split
  · rw [shortValue_zero num hx w (by omega)]
    exact add_zero_isZero num isZero_zero
  · rfl

theorem rd_transformed_zero (num : NumSystem) (kind : BlockKind) {x : Vector Sample 576}
    (hx : ∀ k, rd x k = Machine.Num.zero) (sb : Nat) {i : Nat} (hi : i < 36) :
    rd (transformed num kind x sb) i = Machine.Num.zero := by
  simp only [transformed]
  split
  · exact rd_transformShort_zero num (fun _ => hx _) hi
  · exact rd_transformLong_zero num (subbandType_lt kind sb) (fun _ => hx _) hi

/-! ## The hybrid stage (R430) -/

section
variable {ch : Nat} {s : State} (hch : ch < 2) (hx : ∀ k < 576, rd (rd s.tr.xr ch) k = Machine.Num.zero)
include hch hx

theorem hybrid_lines_zero (kind : BlockKind) (k : Nat) : rd (rd (hybrid kind ch s).tr.xr ch) k = Machine.Num.zero := by
  refine rd_zero_lines (fun j hj => ?_) k
  rw [hybrid_lines hch, aliasReduced, rd_tab _ _ hj]
  exact aliasLine_zero _ _ (rd_zero_lines (rd_reordered_zero (rd_zero_lines hx) _ _ kind)) j

variable {sb j : Nat} (hsb : sb < 32) (hj : j < 18)
include hsb hj

/-- The transform adds +0.0 to the old tail (R427). -/
theorem hybrid_samples_zero (kind : BlockKind) :
    rd (rd (rd (hybrid kind ch s).tr.hy ch) sb) j =
      freqInvert sb j (Num.add s.cfg.num Machine.Num.zero (rd (rd (rd s.ov ch) sb) j)) := by
  rw [hybrid_samples hch hsb hj, ← rd_transformed _ _ _ _ (by omega),
    rd_transformed_zero _ _ (hybrid_lines_zero hch hx kind) _ (by omega)]

theorem hybrid_tail_zero (kind : BlockKind) :
    rd (rd (rd (hybrid kind ch s).ov ch) sb) j = Machine.Num.zero := by
  rw [hybrid_tail hch hsb hj, ← rd_transformed _ _ _ _ (by omega),
    rd_transformed_zero _ _ (hybrid_lines_zero hch hx kind) _ (by omega)]

end

/-- The instruction of a block kind is the hybrid stage of that kind on the sequencer's channel (R323). -/
theorem exec_eq_hybrid {m : BitVec 1} {i : Instr}
    (hi : i ∈ [Instr.blkNormal, .blkStart m, .blkShort, .blkMixed, .blkStop m]) (s : State) :
    ∃ kind, exec i s = .next (hybrid kind s.seqCh s) := by
  simp only [List.mem_cons, List.not_mem_nil, or_false] at hi
  obtain rfl | rfl | rfl | rfl | rfl := hi <;> exact ⟨_, rfl⟩

/-- Settles O59: zero lines stay +0.0 through reordering, butterflies and transforms, whatever the block kind. -/
theorem zeroSpectrumPlaysOutTheTail : Obligations.ZeroSpectrumPlaysOutTheTail := by
  unfold Obligations.ZeroSpectrumPlaysOutTheTail
  intro m s hx i hi
  obtain ⟨kind, hexec⟩ := exec_eq_hybrid hi s
  have hch : s.seqCh < 2 := s.seq.ch.isLt
  exact ⟨_, hexec, fun sb hsb j hj => ⟨hybrid_samples_zero hch hx hsb hj kind, hybrid_tail_zero hch hx hsb hj kind⟩⟩

end Sys2Proof.Machine
end

section
/-! PROOFS. Every step answers, and what `RESTART` and `REINIT` clear (R522 to R524, R536). -/

-- One theorem after another: threads that wait for each other exhaust the memory limit with their stacks.
set_option Elab.async false

namespace Sys2Proof.Machine

open Act

/-! ## Answers (R536) -/

/-- Every instruction has a meaning in every state: no arm of `exec` faults or refuses. -/
theorem exec_answers (i : Instr) (s : State) : ∃ t, exec i s = .next t := by
  cases i <;> exact ⟨_, rfl⟩

theorem stepFrame_answers (s : State) : ∃ t, stepFrame s = .next t := by
  cases h : fetchFrameWord (startCommand s) with
  | ok w t => rw [stepFrame_of_fetched h]; exact exec_answers _ t
  | error e t => exact ⟨_, stepFrame_of_error h⟩

theorem perform_answers (op : HostOp) (s : State) : ∃ t, perform op s = .next t := by
  cases op with
  | command w => exact exec_answers _ s
  | pseudo p => exact exec_answers _ s
  | selector x => exact exec_answers _ s
  | frame => exact stepFrame_answers s
  | present bytes => exact ⟨_, rfl⟩
  | resetInput => exact ⟨_, rfl⟩

/-- Settles O6: without a request the step is the boundary of `EQW`, and each request answers. -/
theorem stepAlwaysAnswers : Obligations.StepAlwaysAnswers := by
  unfold Obligations.StepAlwaysAnswers
  intro s
  cases h : s.cp.ops with
  | nil => exact ⟨_, step_idle h⟩
  | cons op rest => rw [step_request h]; exact perform_answers op _

/-! ## RESTART and REINIT (R522 to R524) -/

theorem exec_restart (s : State) : exec .restart s = .next (endCommand .ok 0 (restartState (startCommand s))) := by
  refine congrArg Host.Outcome.next (runCommand_of_returns (body := restartBody) ?_)
  unfold restartBody
  simp only [ends_bind, ends_modify, ends_pure, and_self]

theorem exec_reinit (s : State) : exec .reinit s = .next (endCommand .ok 0 (reinitState (startCommand s))) := by
  refine congrArg Host.Outcome.next (runCommand_of_returns (body := reinitBody) ?_)
  unfold reinitBody
  simp only [ends_bind, ends_modify, ends_pure, and_self]

/-- `REINIT` keeps the coefficients of a filter and clears its history (R522). -/
theorem reinitState_filter (s : State) {ch : Nat} (hch : ch < 2) :
    rd (reinitState s).sf ch = { rd s.sf ch with v := resetValues.filter.v } := rd_tab _ ch hch

/-- Settles O44: the commands end with `restartState` and `reinitState`, whose registers are those of the statement. -/
theorem restartClearsTheStream : Obligations.RestartClearsTheStream := by
  unfold Obligations.RestartClearsTheStream
  refine ⟨fun s => ⟨_, exec_restart s, ended_endCommand rfl rfl rfl, rfl, rfl, rfl, rfl, rfl, rfl, rfl, rfl, rfl⟩,
    fun s => ⟨_, exec_reinit s, ended_endCommand rfl rfl rfl, rfl, rfl, rfl, rfl, rfl, rfl, rfl, rfl, fun ch hch => ?_,
      rfl, rfl, rfl⟩⟩
  have hfilter : rd (endCommand .ok 0 (reinitState (startCommand s))).sf ch =
      { rd s.sf ch with v := resetValues.filter.v } := reinitState_filter (startCommand s) hch
  rw [hfilter]
  exact ⟨rfl, fun i hi => rd_replicate _ i hi⟩

end Sys2Proof.Machine
end

section
/-! PROOFS. `DECODE_FRAME` that does not end with `OK`: its checks one by one, and what an error leaves alone (R441 to
R446, R483). -/

-- One theorem after another: threads that wait for each other exhaust the memory limit with their stacks.
set_option Elab.async false

namespace Sys2Proof.Machine

open Act

/-! ## The checks of DECODE_FRAME (R442 to R445) -/

theorem headerHeld_iff (s : State) : s.headerHeld = true ↔ s.hdr.valid = true ∧ s.br.pos = s.hdr.start + 32 := by
  simp only [State.headerHeld, Bool.and_eq_true, beq_iff_eq]

/-- `DECODE_FRAME` uses its header up, whatever its checks find (R441). -/
def dropHeader (s : State) : State := s.withHdr { s.hdr with valid := false }

/-- Where the fetch of the body starts: the header used up and the session open (R441, R443). -/
def fetchStart (s : State) : State := openSession (dropHeader (startCommand s))

theorem fetchStart_eq (s : State) : fetchStart s = { s with
    hdr := { s.hdr with valid := false }
    ses := if s.ses.init then s.ses
      else { s.ses with init := true, channels := s.frm.channels, rate := s.frm.rate }
    st := (startCommand s).st } := by
  have hinit : (dropHeader (startCommand s)).ses.init = s.ses.init := rfl
  unfold fetchStart openSession
  rw [hinit]
  split <;> rfl

theorem brInv_fetchStart {s : State} (hi : BrInv s) : BrInv (fetchStart s) := by
  rw [fetchStart_eq]
  exact hi.congr rfl rfl

section
variable {Q : BitVec 32 → State → Prop} {E : Code → State → Prop}

/-- Check 1 for a cursor in range: a held header of a layer, or `UnsupportedLayer` (R442). -/
theorem decodeFrameBody_ends_held (s : State) (hin : s.headerHeld = true → s.bodyEnd < 2 ^ 64) :
    Ends decodeFrameBody Q E s ↔
      if s.headerHeld = true ∧ s.frm.layer ≠ 0 then Ends (decodeHeld s.frm.layer.toNat) Q E (dropHeader s)
      else E .unsupportedLayer (dropHeader s) := by
  have hlayer : s.frm.layer.toNat = 0 ↔ s.frm.layer = 0 := BitVec.toNat_inj (y := 0)
  unfold decodeFrameBody dropHeader
  simp only [ends_bind, ends_get, ends_set, ends_ite, ends_throw, cursorCheck_ends]
  by_cases hheld : s.headerHeld = true
  · simp only [hheld, if_true, if_pos (hin hheld), true_and, ne_eq, ite_not, hlayer]
  · simp only [hheld, if_false, if_true, false_and, Bool.false_eq_true]

/-- Checks 2 and 3: the session agrees, or `SessionMismatch`; then the body is fetched (R443 to R445). -/
theorem decodeHeld_ends (layer : Nat) (s : State) :
    Ends (decodeHeld layer) Q E s ↔
      if s.sessionAgrees = true then
        Ends fetchBody (fun _ t => Ends (decodeBody layer) (fun _ u => Q (u.frm.spf.setWidth 32) u) E
          (sinkClear (makeSlot layer t))) E (openSession s)
      else E .sessionMismatch s := by
  unfold decodeHeld
  simp only [ends_bind, ends_get, ends_modify, ends_pure, checkSession_ends]

end

section
variable {s : State}

/-- An error of check 1 or 2 changes nothing but `HDR.valid` (R442, R444). -/
theorem dropHeader_ended {e : Code} (h : runCommand decodeFrameBody s = endCommand e 0 (dropHeader (startCommand s))) :
    ∃ t, exec .decodeFrame s = .next t ∧ Ended e 0 s t ∧ t.hdr = { s.hdr with valid := false } ∧
      t = { s with hdr := t.hdr, st := t.st, cp := t.cp } := by
  rw [exec_decodeFrame, h]
  exact ⟨_, rfl, ended_endCommand rfl rfl rfl, rfl, rfl⟩

theorem decodeFrame_unheld (hno : ¬ (s.hdr.valid = true ∧ s.br.pos = s.hdr.start + 32 ∧ s.frm.layer ≠ 0))
    (hin : s.hdr.valid = true → s.br.pos = s.hdr.start + 32 → s.bodyEnd < 2 ^ 64) :
    runCommand decodeFrameBody s = endCommand .unsupportedLayer 0 (dropHeader (startCommand s)) := by
  have hheld := headerHeld_iff (startCommand s)
  have hrange : (startCommand s).headerHeld = true → s.bodyEnd < 2 ^ 64 := fun h => and_imp.mpr hin (hheld.mp h)
  refine runCommand_of_raises ((decodeFrameBody_ends_held (startCommand s) hrange).mpr ?_)
  rw [if_neg fun h => hno (and_assoc.mp (h.imp_left hheld.mp))]
  exact ⟨rfl, rfl⟩

end

section
variable {s : State} (hv : s.hdr.valid = true) (hcursor : s.br.pos = s.hdr.start + 32) (hlayer : s.frm.layer ≠ 0)
  (hin : s.bodyEnd < 2 ^ 64)
include hv hcursor hlayer hin

/-- Past check 1, checks 2 and 3 decide. -/
theorem decodeFrameBody_ends_past_header {Q : BitVec 32 → State → Prop} {E : Code → State → Prop} :
    Ends decodeFrameBody Q E (startCommand s) ↔
      if s.sessionAgrees = true then
        Ends fetchBody (fun _ t => Ends (decodeBody s.frm.layer.toNat) (fun _ u => Q (u.frm.spf.setWidth 32) u) E
          (sinkClear (makeSlot s.frm.layer.toNat t))) E (fetchStart s)
      else E .sessionMismatch (dropHeader (startCommand s)) := by
  have hheld := (headerHeld_iff (startCommand s)).mpr ⟨hv, hcursor⟩
  rw [decodeFrameBody_ends_held (startCommand s) fun _ => hin, if_pos ⟨hheld, hlayer⟩, decodeHeld_ends]
  rfl

theorem decodeFrame_mismatch (hses : s.sessionAgrees = false) :
    runCommand decodeFrameBody s = endCommand .sessionMismatch 0 (dropHeader (startCommand s)) := by
  refine runCommand_of_raises ((decodeFrameBody_ends_past_header hv hcursor hlayer hin).mpr ?_)
  rw [if_neg (Bool.eq_false_iff.mp hses)]
  exact ⟨rfl, rfl⟩

/-- A truncated body: the session is open, and the pull has met the end of the source (R443, R445). -/
theorem decodeFrame_truncated (hi : BrInv s) (hses : s.sessionAgrees = true)
    (hbody : 8 * s.src.bytes.length < s.bodyEnd) :
    runCommand decodeFrameBody s = endCommand .streamExhausted 0 (pullTo (bytesFor s.bodyEnd) (fetchStart s)) := by
  have hend : (fetchStart s).bodyEnd = s.bodyEnd := by rw [fetchStart_eq]; rfl
  have hsrc : (fetchStart s).src = s.src := by rw [fetchStart_eq]
  have hshort := mt (pullTo_covers (brInv_fetchStart hi) hin).mp (by rw [hsrc]; omega)
  refine runCommand_of_raises ((decodeFrameBody_ends_past_header hv hcursor hlayer hin).mpr ?_)
  rw [if_pos hses]
  unfold fetchBody Ends
  dsimp only
  rw [hend, if_pos (Nat.not_le.mp hshort)]
  exact ⟨rfl, rfl⟩

end

/-- Settles O20: each check that fails ends the body where it stands in R441. -/
theorem decodeFrameNeedsHeaderAndSession : Obligations.DecodeFrameNeedsHeaderAndSession := by
  unfold Obligations.DecodeFrameNeedsHeaderAndSession
  refine ⟨fun s hno hin => dropHeader_ended (decodeFrame_unheld hno hin),
    fun s hv hcursor hlayer hin hinit hother => dropHeader_ended (decodeFrame_mismatch hv hcursor hlayer hin ?_),
    fun s hi hv hcursor hlayer hses hin hbody => ?_⟩
  · simpa [State.sessionAgrees, hinit, imp_iff_not_or] using hother
  · have hsrc : (fetchStart s).src = s.src := by rw [fetchStart_eq]
    have hbr : (fetchStart s).br = s.br := by rw [fetchStart_eq]
    have hpos := (pullTo_frame (bytesFor s.bodyEnd) (fetchStart s)).pos
    have heod := (pullTo_exhausts (brInv_fetchStart hi) hin (by rwa [hsrc])).1
    have hpull := pullTo_eq (bytesFor s.bodyEnd) (fetchStart s)
    rw [exec_decodeFrame, decodeFrame_truncated hv hcursor hlayer hin hi hses hbody]
    generalize pullTo (bytesFor s.bodyEnd) (fetchStart s) = u at hpull hpos heod ⊢
    rw [fetchStart_eq] at hpull
    refine ⟨_, rfl, ended_endCommand ?_ ?_ ?_, ?_, hpos.trans (by rw [hbr]), heod, ?_, ?_⟩ <;> rw [hpull] <;> rfl

/-! ## What an error leaves alone (R483) -/

/-- What a `DECODE_FRAME` may have changed when it ends with an error (R473, R483): no filter, no equalizer value, not
`FRM`; reservoir and overlap by the making of the Layer III slot, the bound sink by its clearing. -/
structure AbortFrame (s t : State) : Prop where
  frm : t.frm = s.frm
  eq : t.eq = s.eq
  sf : t.sf = s.sf
  outSink : t.outSink = s.outSink
  seq : t.seq = s.seq
  src : t.src = s.src
  ep : t.ep = s.ep
  cfg : t.cfg = s.cfg
  slot : (t.made.l3 = s.made.l3 ∧ t.res = s.res ∧ t.ov = s.ov) ∨
    (s.made.l3 = false ∧ t.made.l3 = true ∧ t.res = [] ∧ t.ov = resetValues.ov)
  sinks : ∀ k < 256, rd t.sinks k = rd s.sinks k ∨
    (k = s.outSink.toNat ∧ k ≠ 0 ∧ rd t.sinks k = { data := Vector.replicate 2 [] })

/-- Changes of the bit reader, the header's validity, the session, `ST`, `FB`, the transient registers and the command
port. -/
theorem AbortFrame.of_eq {s t : State} (h : t = { s with
    br := t.br, hdr := t.hdr, ses := t.ses, st := t.st, fb := t.fb, tr := t.tr, cp := t.cp, freeCtr := t.freeCtr }) :
    AbortFrame s t := by
  rw [h]
  exact ⟨rfl, rfl, rfl, rfl, rfl, rfl, rfl, rfl, .inl ⟨rfl, rfl, rfl⟩, fun _ _ => .inl rfl⟩

theorem AbortFrame.refl (s : State) : AbortFrame s s := .of_eq rfl

theorem AbortFrame.trans (s t u : State) (h : AbortFrame s t) (k : AbortFrame t u) : AbortFrame s u where
  frm := k.frm.trans h.frm
  eq := k.eq.trans h.eq
  sf := k.sf.trans h.sf
  outSink := k.outSink.trans h.outSink
  seq := k.seq.trans h.seq
  src := k.src.trans h.src
  ep := k.ep.trans h.ep
  cfg := k.cfg.trans h.cfg
  slot := by
    obtain ⟨hmade, hres, hov⟩ | ⟨hbefore, hafter, hres, hov⟩ := h.slot <;>
      obtain ⟨kmade, kres, kov⟩ | ⟨kbefore, kafter, kres, kov⟩ := k.slot
    · exact .inl ⟨kmade.trans hmade, kres.trans hres, kov.trans hov⟩
    · exact .inr ⟨hmade ▸ kbefore, kafter, kres, kov⟩
    · exact .inr ⟨hbefore, kmade.trans hafter, kres.trans hres, kov.trans hov⟩
    · exact absurd (hafter.symm.trans kbefore) nofun
  sinks := fun i hi => by
    obtain hsame | ⟨hbound, hne, hclear⟩ := k.sinks i hi
    · rw [hsame]
      exact h.sinks i hi
    · exact .inr ⟨h.outSink ▸ hbound, hne, hclear⟩

theorem abort_openSession (s : State) : AbortFrame s (openSession s) := .of_eq (by rw [openSession_eq]; rfl)

/-- Fetching the body moves the cursor and fills `FB`, or has pulled what there was (R445). -/
theorem abort_fetchBody : Keeps AbortFrame fetchBody := by
  intro s
  unfold Ends fetchBody
  dsimp only
  split_ifs
  · exact .of_eq (by rw [pullTo_eq])
  · exact .of_eq (by rw [takeBody_eq])

/-- The Layer III slot starts with an empty reservoir and overlap, the other slots with none (R44, R446). -/
theorem abort_makeSlot (layer : Nat) (s : State) : AbortFrame s (makeSlot layer s) := by
  unfold makeSlot
  split
  · exact .refl s
  · rename_i hmade
    dsimp only
    split
    · rename_i hlayer
      subst hlayer
      have hl3 : s.made.l3 = false := by simpa [Slots.get] using hmade
      have hset : (s.made.set 3).l3 = true := by simp [Slots.set]
      exact ⟨rfl, rfl, rfl, rfl, rfl, rfl, rfl, rfl, .inr ⟨hl3, hset, rfl, rfl⟩, fun _ _ => .inl rfl⟩
    · rename_i hlayer
      have hset : (s.made.set layer).l3 = s.made.l3 := by simp [Slots.set, hlayer]
      exact ⟨rfl, rfl, rfl, rfl, rfl, rfl, rfl, rfl, .inl ⟨hset, rfl, rfl⟩, fun _ _ => .inl rfl⟩

/-- Only the bound sink is cleared (R97). -/
theorem abort_sinkClear (s : State) : AbortFrame s (sinkClear s) := by
  have hsinks : ∀ k < 256, rd (sinkClear s).sinks k = rd s.sinks k ∨
      (k = s.outSink.toNat ∧ k ≠ 0 ∧ rd (sinkClear s).sinks k = { data := Vector.replicate 2 [] }) := fun k hk => by
    unfold sinkClear
    rw [rd_onSink _ _ _ hk]
    split
    · rename_i h
      exact .inr ⟨h.2, fun h0 => h.1 (BitVec.eq_of_toNat_eq (h.2.symm.trans h0)), rfl⟩
    · exact .inl rfl
  have hfields : sinkClear s = s.withSinks (sinkClear s).sinks := onSink_fields _ s
  generalize (sinkClear s).sinks = x at hsinks hfields
  rw [hfields]
  exact ⟨rfl, rfl, rfl, rfl, rfl, rfl, rfl, rfl, .inl ⟨rfl, rfl, rfl⟩, hsinks⟩

/-- An error of a layer decoder is one of its parse, before it has fed a filter (R483). -/
theorem decodeBody_aborts (layer : Nat) (s : State) :
    Ends (decodeBody layer) (fun _ _ => True) (fun _ t => AbortFrame s t) s :=
  (decodeBody_ends layer s).mpr <| (decodeLayer_ends layer s).mono (fun _ _ _ => trivial) fun _ t ht => by
    have hp := ht.2.1
    exact ⟨hp.frm, hp.eq, hp.sf, hp.outSink, hp.seq, hp.src, hp.ep, hp.cfg,
      .inl ⟨congrArg Slots.l3 hp.made, hp.res, hp.ov⟩, fun k _ => .inl (congrArg (rd · k) hp.sinks)⟩

theorem decodeHeld_aborts (layer : Nat) (s : State) :
    Ends (decodeHeld layer) (fun _ _ => True) (fun _ t => AbortFrame s t) s := by
  have hopen := abort_openSession s
  rw [decodeHeld_ends]
  split
  · refine (abort_fetchBody (openSession s)).mono (fun _ t ht => ?_) fun _ _ ht => hopen.trans _ _ _ ht
    have hclear := ((hopen.trans _ _ _ ht).trans _ _ _ (abort_makeSlot layer t)).trans _ _ _ (abort_sinkClear _)
    exact (decodeBody_aborts layer _).mono (fun _ _ _ => trivial) fun _ _ hu => hclear.trans _ _ _ hu
  · exact .refl s

/-- Whatever error ends `DECODE_FRAME` (R442). -/
theorem decodeFrameBody_aborts (s : State) :
    Ends decodeFrameBody (fun _ _ => True) (fun _ t => AbortFrame s t) s := by
  have hdrop : AbortFrame s (dropHeader s) := .of_eq rfl
  by_cases hin : s.headerHeld = true → s.bodyEnd < 2 ^ 64
  · rw [decodeFrameBody_ends_held s hin]
    split
    · exact (decodeHeld_aborts _ _).mono (fun _ _ _ => trivial) fun _ _ ht => hdrop.trans _ _ _ ht
    · exact hdrop
  · obtain ⟨hheld, hout⟩ := Classical.not_imp.mp hin
    unfold decodeFrameBody
    simp only [ends_bind, ends_get, hheld, if_true, cursorCheck_ends, if_neg hout]
    exact .refl s

/-- Settles O23: an error of the body leaves an `AbortFrame`, and a body that returns ends with `OK`. -/
theorem decodeFrameErrorsAreAtomic : Obligations.DecodeFrameErrorsAreAtomic := by
  unfold Obligations.DecodeFrameErrorsAreAtomic
  intro s t h hcode
  rw [exec_decodeFrame] at h
  obtain ⟨v, u, -, hrun⟩ | ⟨e, u, hu, hrun⟩ := runCommand_of_ends (decodeFrameBody_aborts (startCommand s))
  · rw [hrun] at h
    exact absurd (Host.Outcome.next.inj h ▸ rfl) hcode
  · have ht : AbortFrame s t := by
      rw [← Host.Outcome.next.inj h, hrun]
      exact ((AbortFrame.of_eq rfl).trans _ _ _ hu).trans _ _ _ (.of_eq rfl)
    obtain ⟨hfrm, heq, hsf, hout, hseq, hsrc, hep, hcfg, hslot, hsinks⟩ := ht
    refine ⟨hsf, heq, hep, hfrm, hslot.imp (fun h => h.2) id, fun k hk => (hsinks k hk).imp_right ?_, ?_⟩
    · rintro ⟨hbound, hne, hclear⟩
      exact ⟨hbound, hne, fun ch hch => by rw [hclear, rd_replicate _ ch hch]⟩
    · rw [← hfrm, ← heq, ← hsf, ← hout, ← hseq, ← hsrc, ← hep, ← hcfg]

end Sys2Proof.Machine
end
